-- ==== Sys2Proof/Word.lean ====
section
/-! DEFINITION. Word.lean: the bit-vector types of the machine (00_scope.md R7, R9, R10).
All values are unsigned (R10); bit 0 is the least significant bit (R9). -/

namespace Sys2Proof

/-- A general register, a timer, a memory byte, an immediate byte kk: 8 bits (R7). -/
abbrev Byte := BitVec 8

/-- An opcode, the index register I, the program counter, a stack slot: 16 bits (R7, R23, R24, R25). -/
abbrev Word := BitVec 16

/-- The 12-bit address field nnn of an opcode (R71). -/
abbrev Addr := BitVec 12

/-- A register index 0..15, naming V0..VF (R20, R71). -/
abbrev Reg := Fin 16

/-- The register that doubles as the flag, VF (R7, R21). -/
abbrev VF : Reg := 15

end Sys2Proof
end

