-- ==== Sys2Proof/Syntax.lean ====
section
/-! DEFINITION. Syntax.lean: the 34 instructions (30_encoding.md R74, R75; 90_conflicts.md C1), in the order of
spec/opcode_table.json. Operand bounds are carried by the operands' types (R71, R72). -/

namespace Sys2Proof

/-- One constructor per row of spec/opcode_table.json; x, y register indices, kk a byte, nnn a 12-bit address,
n a sprite height (R72). -/
inductive Instr where
  /-- 00E0, CLS (R200). -/
  | clearDisplay
  /-- 00EE, RET (R120). -/
  | ret
  /-- 1nnn, JP nnn (R121). -/
  | jump (nnn : Addr)
  /-- 2nnn, CALL nnn (R122). -/
  | call (nnn : Addr)
  /-- 3xkk, SE Vx, kk (R123). -/
  | skipEqImm (x : Reg) (kk : Byte)
  /-- 4xkk, SNE Vx, kk (R124). -/
  | skipNeImm (x : Reg) (kk : Byte)
  /-- 5xy0, SE Vx, Vy (R125). -/
  | skipEqReg (x y : Reg)
  /-- 6xkk, LD Vx, kk (R141). -/
  | setImm (x : Reg) (kk : Byte)
  /-- 7xkk, ADD Vx, kk (R142). -/
  | addImm (x : Reg) (kk : Byte)
  /-- 8xy0, LD Vx, Vy (R143). -/
  | assign (x y : Reg)
  /-- 8xy1, OR Vx, Vy (R144). -/
  | or (x y : Reg)
  /-- 8xy2, AND Vx, Vy (R145). -/
  | and (x y : Reg)
  /-- 8xy3, XOR Vx, Vy (R146). -/
  | xor (x y : Reg)
  /-- 8xy4, ADD Vx, Vy (R147). -/
  | add (x y : Reg)
  /-- 8xy5, SUB Vx, Vy (R148). -/
  | sub (x y : Reg)
  /-- 8xy6, SHR Vx, Vy (R149). -/
  | shiftRight (x y : Reg)
  /-- 8xy7, SUBN Vx, Vy (R150). -/
  | reverseSub (x y : Reg)
  /-- 8xyE, SHL Vx, Vy (R151). -/
  | shiftLeft (x y : Reg)
  /-- 9xy0, SNE Vx, Vy (R126). -/
  | skipNeReg (x y : Reg)
  /-- Annn, LD I, nnn (R171). -/
  | setIndex (nnn : Addr)
  /-- Bnnn, JP V0, nnn (R127). -/
  | jumpOffset (nnn : Addr)
  /-- Cxkk, RND Vx, kk (R152). -/
  | randomAnd (x : Reg) (kk : Byte)
  /-- Dxyn, DRW Vx, Vy, n (R204). -/
  | draw (x y : Reg) (n : Fin 16)
  /-- Ex9E, SKP Vx (R210). -/
  | skipKeyPressed (x : Reg)
  /-- ExA1, SKNP Vx (R211). -/
  | skipKeyNotPressed (x : Reg)
  /-- Fx07, LD Vx, DT (R190). -/
  | getDelay (x : Reg)
  /-- Fx0A, LD Vx, K (R213). -/
  | waitKey (x : Reg)
  /-- Fx15, LD DT, Vx (R191). -/
  | setDelay (x : Reg)
  /-- Fx18, LD ST, Vx (R192). -/
  | setSound (x : Reg)
  /-- Fx1E, ADD I, Vx (R172). -/
  | addIndex (x : Reg)
  /-- Fx29, LD F, Vx (R173). -/
  | setIndexGlyph (x : Reg)
  /-- Fx33, LD B, Vx (R174). -/
  | bcdStore (x : Reg)
  /-- Fx55, LD [I], Vx (R175). -/
  | registerDump (x : Reg)
  /-- Fx65, LD Vx, [I] (R176). -/
  | registerLoad (x : Reg)
  deriving DecidableEq, Repr

end Sys2Proof
end

