-- ==== Sys2Proof/WellFormed.lean ====
section
/-! DEFINITION. WellFormed.lean: which words are instructions at all.
Every operand of an Instr is bounded by its type (Reg is 0..15, Byte 0..255, Addr 0..4095, a height 0..15), so each
term of Instr is well formed as it stands; the check that has content is on the 16-bit word. It is given twice,
independently of the decoder: by the mask and match of each row of spec/opcode_table.json, and by the list of the
illegal words of 30_encoding.md R77. -/

namespace Sys2Proof

/-- One row of spec/opcode_table.json: w is the row's when its masked bits equal the pattern. -/
structure OpcodeRow where
  /-- The bits the row fixes. -/
  mask : Word
  /-- Their values ("match" in the table). -/
  pattern : Word
  deriving DecidableEq, Repr

/-- Does the row fix w's bits as w has them? -/
def OpcodeRow.accepts (r : OpcodeRow) (w : Word) : Bool := w &&& r.mask == r.pattern

/-- Families 0 to 5: ClearDisplay, Return, Jump, Call, SkipEqImm, SkipNeImm, SkipEqReg. -/
def OpcodeRow.rowsControl : List OpcodeRow :=
  [ ⟨0xFFFF, 0x00E0⟩,
    ⟨0xFFFF, 0x00EE⟩,
    ⟨0xF000, 0x1000⟩,
    ⟨0xF000, 0x2000⟩,
    ⟨0xF000, 0x3000⟩,
    ⟨0xF000, 0x4000⟩,
    ⟨0xF00F, 0x5000⟩ ]

/-- Families 6 and 7: SetImm, AddImm. -/
def OpcodeRow.rowsImmediate : List OpcodeRow :=
  [ ⟨0xF000, 0x6000⟩,
    ⟨0xF000, 0x7000⟩ ]

/-- Family 8: Assign, Or, And, Xor, Add, Sub, ShiftRight, ReverseSub, ShiftLeft. -/
def OpcodeRow.rowsAlu : List OpcodeRow :=
  [ ⟨0xF00F, 0x8000⟩,
    ⟨0xF00F, 0x8001⟩,
    ⟨0xF00F, 0x8002⟩,
    ⟨0xF00F, 0x8003⟩,
    ⟨0xF00F, 0x8004⟩,
    ⟨0xF00F, 0x8005⟩,
    ⟨0xF00F, 0x8006⟩,
    ⟨0xF00F, 0x8007⟩,
    ⟨0xF00F, 0x800E⟩ ]

/-- Families 9 to D: SkipNeReg, SetIndex, JumpOffset, RandomAnd, Draw. -/
def OpcodeRow.rowsMiddle : List OpcodeRow :=
  [ ⟨0xF00F, 0x9000⟩,
    ⟨0xF000, 0xA000⟩,
    ⟨0xF000, 0xB000⟩,
    ⟨0xF000, 0xC000⟩,
    ⟨0xF000, 0xD000⟩ ]

/-- Family E: SkipKeyPressed, SkipKeyNotPressed. -/
def OpcodeRow.rowsKeypad : List OpcodeRow :=
  [ ⟨0xF0FF, 0xE09E⟩,
    ⟨0xF0FF, 0xE0A1⟩ ]

/-- Family F: GetDelay, WaitKey, SetDelay, SetSound, AddIndex, SetIndexGlyph, BcdStore, RegisterDump, RegisterLoad. -/
def OpcodeRow.rowsSelect : List OpcodeRow :=
  [ ⟨0xF0FF, 0xF007⟩,
    ⟨0xF0FF, 0xF00A⟩,
    ⟨0xF0FF, 0xF015⟩,
    ⟨0xF0FF, 0xF018⟩,
    ⟨0xF0FF, 0xF01E⟩,
    ⟨0xF0FF, 0xF029⟩,
    ⟨0xF0FF, 0xF033⟩,
    ⟨0xF0FF, 0xF055⟩,
    ⟨0xF0FF, 0xF065⟩ ]

/-- The 34 rows, in the table's order. -/
def OpcodeRow.table : List OpcodeRow :=
  OpcodeRow.rowsControl ++ OpcodeRow.rowsImmediate ++ OpcodeRow.rowsAlu ++ OpcodeRow.rowsMiddle
    ++ OpcodeRow.rowsKeypad ++ OpcodeRow.rowsSelect

/-- A word is well formed when it is some row's (R78: such a word executes, every other is a DecodeError). -/
def wellFormedWord (w : Word) : Bool := OpcodeRow.table.any fun r => r.accepts w

/-- R77 (a): family 0 except 0x00E0 and 0x00EE. -/
def illegalFixed (w : Word) : Bool := decide (w.toNat / 0x1000 = 0) && w != 0x00E0 && w != 0x00EE

/-- R77 (b): families 5 and 9 with a low nibble other than 0. -/
def illegalRegReg (w : Word) : Bool :=
  (decide (w.toNat / 0x1000 = 0x5) || decide (w.toNat / 0x1000 = 0x9)) && decide (w.toNat % 0x10 ≠ 0)

/-- R77 (c): family 8 with low nibble 8, 9, A, B, C, D or F. -/
def illegalAlu (w : Word) : Bool :=
  decide (w.toNat / 0x1000 = 0x8) && [0x8, 0x9, 0xA, 0xB, 0xC, 0xD, 0xF].contains (w.toNat % 0x10)

/-- R77 (d): family E with a low byte other than 9E and A1. -/
def illegalKeypad (w : Word) : Bool :=
  decide (w.toNat / 0x1000 = 0xE) && !([0x9E, 0xA1].contains (w.toNat % 0x100))

/-- R77 (e): family F with a low byte other than the nine of R74. -/
def illegalSelect (w : Word) : Bool :=
  decide (w.toNat / 0x1000 = 0xF)
    && !([0x07, 0x0A, 0x15, 0x18, 0x1E, 0x29, 0x33, 0x55, 0x65].contains (w.toNat % 0x100))

/-- The illegal words of R77, as the rule lists them. -/
def illegalWord (w : Word) : Bool :=
  illegalFixed w || illegalRegReg w || illegalAlu w || illegalKeypad w || illegalSelect w

end Sys2Proof
end

