-- ==== Sys2Proof/Decode.lean ====
section
/-! DEFINITION. Decode.lean: the decoder (30_encoding.md R74), total and reading nothing but the opcode (R79), and the
encoder written from the same table. The pairing of sub-codes with operations is log 14. -/

namespace Sys2Proof

/-- Why bytes are no instruction. -/
inductive DecodeError where
  /-- An illegal word, kept for diagnostics: "Every DecodeError must retain the offending 16-bit value" (R77). -/
  | illegal (op : Word)
  /-- Fewer than two bytes: no opcode (R70). The machine never raises it, since it fetches two bytes (R56). -/
  | truncated
  deriving DecidableEq, Repr

/-- The family, op[15:12] (R71). -/
def opFamily (op : Word) : BitVec 4 := op.extractLsb' 12 4

/-- The register field x, op[11:8] (R71). -/
def opX (op : Word) : Reg := (op.extractLsb' 8 4).toFin

/-- The register field y, op[7:4] (R71). -/
def opY (op : Word) : Reg := (op.extractLsb' 4 4).toFin

/-- The low nibble n, op[3:0] (R71). -/
def opN (op : Word) : BitVec 4 := op.extractLsb' 0 4

/-- The low byte kk, op[7:0] (R71). -/
def opKK (op : Word) : Byte := op.extractLsb' 0 8

/-- The address field nnn, op[11:0] (R71). -/
def opNNN (op : Word) : Addr := op.extractLsb' 0 12

/-- Family 0: the whole word is fixed (R74). -/
def decodeFixed (op : Word) : Except DecodeError Instr :=
  if op = 0x00E0 then .ok .clearDisplay
  else if op = 0x00EE then .ok .ret
  else .error (.illegal op)

/-- Family 8: n selects the operation (R74). -/
def decodeAlu (op : Word) : Except DecodeError Instr :=
  match opN op with
  | 0x0 => .ok (.assign (opX op) (opY op))
  | 0x1 => .ok (.or (opX op) (opY op))
  | 0x2 => .ok (.and (opX op) (opY op))
  | 0x3 => .ok (.xor (opX op) (opY op))
  | 0x4 => .ok (.add (opX op) (opY op))
  | 0x5 => .ok (.sub (opX op) (opY op))
  | 0x6 => .ok (.shiftRight (opX op) (opY op))
  | 0x7 => .ok (.reverseSub (opX op) (opY op))
  | 0xE => .ok (.shiftLeft (opX op) (opY op))
  | _ => .error (.illegal op)

/-- Family E: kk selects the operation (R74). -/
def decodeKeypad (op : Word) : Except DecodeError Instr :=
  if opKK op = 0x9E then .ok (.skipKeyPressed (opX op))
  else if opKK op = 0xA1 then .ok (.skipKeyNotPressed (opX op))
  else .error (.illegal op)

/-- Family F: kk selects the operation (R74). -/
def decodeSelect (op : Word) : Except DecodeError Instr :=
  if opKK op = 0x07 then .ok (.getDelay (opX op))
  else if opKK op = 0x0A then .ok (.waitKey (opX op))
  else if opKK op = 0x15 then .ok (.setDelay (opX op))
  else if opKK op = 0x18 then .ok (.setSound (opX op))
  else if opKK op = 0x1E then .ok (.addIndex (opX op))
  else if opKK op = 0x29 then .ok (.setIndexGlyph (opX op))
  else if opKK op = 0x33 then .ok (.bcdStore (opX op))
  else if opKK op = 0x55 then .ok (.registerDump (opX op))
  else if opKK op = 0x65 then .ok (.registerLoad (opX op))
  else .error (.illegal op)

/-- decode(op) of R74: one instruction with its operands, or DecodeError(op). -/
def decode (op : Word) : Except DecodeError Instr :=
  match opFamily op with
  | 0x0 => decodeFixed op
  | 0x1 => .ok (.jump (opNNN op))
  | 0x2 => .ok (.call (opNNN op))
  | 0x3 => .ok (.skipEqImm (opX op) (opKK op))
  | 0x4 => .ok (.skipNeImm (opX op) (opKK op))
  | 0x5 => if opN op = 0 then .ok (.skipEqReg (opX op) (opY op)) else .error (.illegal op)
  | 0x6 => .ok (.setImm (opX op) (opKK op))
  | 0x7 => .ok (.addImm (opX op) (opKK op))
  | 0x8 => decodeAlu op
  | 0x9 => if opN op = 0 then .ok (.skipNeReg (opX op) (opY op)) else .error (.illegal op)
  | 0xA => .ok (.setIndex (opNNN op))
  | 0xB => .ok (.jumpOffset (opNNN op))
  | 0xC => .ok (.randomAnd (opX op) (opKK op))
  | 0xD => .ok (.draw (opX op) (opY op) (opN op).toFin)
  | 0xE => decodeKeypad op
  | _ => decodeSelect op

/-- The opcode two bytes hold, the high byte first (20_memory.md R55). -/
def wordOfBytes (high low : Byte) : Word := high ++ low

/-- The high byte of a word, stored at the lower address (R55). -/
def highByte (w : Word) : Byte := w.extractLsb' 8 8

/-- The low byte of a word, stored at the higher address (R55). -/
def lowByte (w : Word) : Byte := w.extractLsb' 0 8

/-- The decoder on bytes: the instruction of the first two, and the rest (R70: every instruction is two bytes). -/
def decodeBytes : List Byte → Except DecodeError (Instr × List Byte)
  | high :: low :: rest =>
    match decode (wordOfBytes high low) with
    | .ok i => .ok (i, rest)
    | .error e => .error e
  | _ => .error .truncated

/-- The instruction the decoder reads from the bits w, numbered as spec/opcode_table.json numbers them; every bit above
nbits is 0. The word is laid out as the machine stores it, high byte first (R55). -/
def decodeTableWord (nbits w : Nat) : Option Instr :=
  let op : Word := BitVec.ofNat 16 (w % 2 ^ nbits)
  match decodeBytes [highByte op, lowByte op] with
  | .ok (i, _) => some i
  | .error _ => none

/-! ### The encoder -/

/-- ADDR format: ffff aaaa aaaa aaaa (R72). -/
def wordAddr (f : BitVec 4) (nnn : Addr) : Word := f ++ nnn

/-- REG_IMM format, and REG_SEL with kk the selector: ffff xxxx kkkk kkkk (R72). -/
def wordRegImm (f : BitVec 4) (x : Reg) (kk : Byte) : Word := f ++ (BitVec.ofFin x : BitVec 4) ++ kk

/-- REG_REG, ALU and DRAW formats: ffff xxxx yyyy nnnn (R72). -/
def wordRegReg (f : BitVec 4) (x y : Reg) (n : BitVec 4) : Word :=
  f ++ (BitVec.ofFin x : BitVec 4) ++ (BitVec.ofFin y : BitVec 4) ++ n

/-- The word of an instruction (R72, R75). -/
def encode : Instr → Word
  | .clearDisplay => 0x00E0
  | .ret => 0x00EE
  | .jump nnn => wordAddr 0x1 nnn
  | .call nnn => wordAddr 0x2 nnn
  | .skipEqImm x kk => wordRegImm 0x3 x kk
  | .skipNeImm x kk => wordRegImm 0x4 x kk
  | .skipEqReg x y => wordRegReg 0x5 x y 0x0
  | .setImm x kk => wordRegImm 0x6 x kk
  | .addImm x kk => wordRegImm 0x7 x kk
  | .assign x y => wordRegReg 0x8 x y 0x0
  | .or x y => wordRegReg 0x8 x y 0x1
  | .and x y => wordRegReg 0x8 x y 0x2
  | .xor x y => wordRegReg 0x8 x y 0x3
  | .add x y => wordRegReg 0x8 x y 0x4
  | .sub x y => wordRegReg 0x8 x y 0x5
  | .shiftRight x y => wordRegReg 0x8 x y 0x6
  | .reverseSub x y => wordRegReg 0x8 x y 0x7
  | .shiftLeft x y => wordRegReg 0x8 x y 0xE
  | .skipNeReg x y => wordRegReg 0x9 x y 0x0
  | .setIndex nnn => wordAddr 0xA nnn
  | .jumpOffset nnn => wordAddr 0xB nnn
  | .randomAnd x kk => wordRegImm 0xC x kk
  | .draw x y n => wordRegReg 0xD x y (BitVec.ofFin n)
  | .skipKeyPressed x => wordRegImm 0xE x 0x9E
  | .skipKeyNotPressed x => wordRegImm 0xE x 0xA1
  | .getDelay x => wordRegImm 0xF x 0x07
  | .waitKey x => wordRegImm 0xF x 0x0A
  | .setDelay x => wordRegImm 0xF x 0x15
  | .setSound x => wordRegImm 0xF x 0x18
  | .addIndex x => wordRegImm 0xF x 0x1E
  | .setIndexGlyph x => wordRegImm 0xF x 0x29
  | .bcdStore x => wordRegImm 0xF x 0x33
  | .registerDump x => wordRegImm 0xF x 0x55
  | .registerLoad x => wordRegImm 0xF x 0x65

end Sys2Proof
end

