-- ==== Sys2Proof/Config.lean ====
section
/-! DEFINITION. Config.lean: the sizes the source fixes (00_scope.md R7) and the machine's one free value.
The parameters a reading could show wrong (ENTRY_PC, RETURN_ADVANCE, FONT_TABLE, reset values) stand in
Machine/Parameters.lean. -/

namespace Sys2Proof

/-- Memory size: addresses 0x000..0xFFF (R7, R50). -/
abbrev Config.memSize : Nat := 0x1000

/-- Stack depth: 16 entries (R7, R25). -/
abbrev Config.stackDepth : Nat := 16

/-- Framebuffer width, in pixels (R7, R30). -/
abbrev Config.fbWidth : Nat := 64

/-- Framebuffer height, in pixels (R7, R30). -/
abbrev Config.fbHeight : Nat := 32

/-- The largest program image: 0x1000 - 0x200 = 3584 bytes (R252). -/
abbrev Config.maxImage : Nat := 3584

/-- FREE VALUE (log 4): the byte the random source gives at the n-th draw of a run. It has no body: nothing can be
proved of its value, so a statement holds for every byte (R152 "any value 0..255", D23). -/
opaque Config.randByte : Nat → Byte

end Sys2Proof
end

