-- ==== Sys2Proof/Machine/Parameters.lean ====
section
/-! DEFINITION. Machine/Parameters.lean: the parameters the source leaves open and the spec names or decides
(00_scope.md R8), and what a byte of memory that nothing has written reads as (10_state.md R34, R250). -/

namespace Sys2Proof.Machine

/-- ENTRY_PC, the program counter after reset (R8, decision D3; log 9); also the load address (R7, R252). -/
def entryPc : Word := 0x200

/-- RETURN_ADVANCE, added to the popped address by Return (R8, R120, decision D8; log 13). -/
def returnAdvance : Word := 2

/-- The font base address (R7, R52). -/
def fontBase : Nat := 0x50

/-- The reset value of V0..VF, DT and ST (R34, decision D4; log 8). -/
def resetByteRegister : Byte := 0x00

/-- The reset value of I and of the stack slots (R34, decision D4; log 8). -/
def resetWordRegister : Word := 0x0000

/-- INIT_FB: every pixel off at reset (R8, R34, decision D24; log 10). -/
def initPixel : Bool := false

/-- DESIGN CHOICE (log 11): a key at reset; the spec says only that KEY is host input (R34). -/
def initKey : Bool := false

/-- SHIFT_USES_VY's default: shift Vx in place (R8, D18; log 5). -/
def shiftUsesVyDefault : Bool := false

/-- FONT_TABLE, glyphs 0 to 7 (R53's default bytes, decision D6; log 6). -/
def fontGlyphsLow : List Byte :=
  [0xF0, 0x90, 0x90, 0x90, 0xF0] ++ [0x20, 0x60, 0x20, 0x20, 0x70]
    ++ [0xF0, 0x10, 0xF0, 0x80, 0xF0] ++ [0xF0, 0x10, 0xF0, 0x10, 0xF0]
    ++ [0x90, 0x90, 0xF0, 0x10, 0x10] ++ [0xF0, 0x80, 0xF0, 0x10, 0xF0]
    ++ [0xF0, 0x80, 0xF0, 0x90, 0xF0] ++ [0xF0, 0x10, 0x20, 0x40, 0x40]

/-- FONT_TABLE, glyphs 8 to F (R53's default bytes, decision D6; log 6). -/
def fontGlyphsHigh : List Byte :=
  [0xF0, 0x90, 0xF0, 0x90, 0xF0] ++ [0xF0, 0x90, 0xF0, 0x10, 0xF0]
    ++ [0xF0, 0x90, 0xF0, 0x90, 0x90] ++ [0xE0, 0x90, 0xE0, 0x90, 0xE0]
    ++ [0xF0, 0x80, 0x80, 0x80, 0xF0] ++ [0xE0, 0x90, 0x90, 0x90, 0xE0]
    ++ [0xF0, 0x80, 0xF0, 0x80, 0xF0] ++ [0xF0, 0x80, 0xF0, 0x80, 0x80]

/-- FONT_TABLE: 16 glyphs of 5 bytes, glyphs 0 to F in order (R52, R53). -/
def fontTable : List Byte := fontGlyphsLow ++ fontGlyphsHigh

/-- What a byte of memory that nothing has written reads as: the font at 0x050..0x09F (R250 step 2), 0x00 elsewhere
(R250 step 1, decision D5; log 7). -/
def resetByte (a : Nat) : Byte :=
  if fontBase ≤ a then fontTable.getD (a - fontBase) 0x00 else 0x00

end Sys2Proof.Machine
end

