-- ==== Sys2Proof/Machine/State.lean ====
section
/-! DEFINITION. Machine/State.lean: the machine's whole state (10_state.md R20 to R34, R29), its faults (60_exceptions.md
R227) and its state after reset (70_reset_and_hazards.md R250). -/

namespace Sys2Proof.Machine

/-- Why load_program fails (R225, R227 code 7). -/
inductive ResourceKind where
  /-- The image could not be read. -/
  | unreadable
  /-- The image is longer than 3584 bytes (R252). -/
  | imageTooLarge
  deriving DecidableEq, Repr

/-- The faults of R227, each with the information it records. Every one is the spec's own outcome, so stopping with it
is faithful, neither safe nor unsafe, except as its docstring says. -/
inductive Fault where
  /-- Code 1, raised by a step whose fetched word is illegal (R221). A host that skips bad words is left out, safe
  (R229, log 12). -/
  | decodeError (op : Word)
  /-- Code 2, StackFault(Overflow), raised by Call with SP = 16 (R223, R122); carries the PC of the Call. -/
  | stackOverflow (pc : Word)
  /-- Code 3, StackFault(Underflow), raised by Return with SP = 0 (R223, R120); carries the PC of the Return. -/
  | stackUnderflow (pc : Word)
  /-- Code 4, BoundsFault(Fetch), raised by a step with PC above 0xFFE (R222); safe (D9, log 18). -/
  | boundsFetch (pc : Word)
  /-- Code 5, BoundsFault(Index), raised by Draw, BcdStore, RegisterDump or RegisterLoad at an address above 0xFFF
  (R224); safe (D10, log 18). -/
  | boundsIndex (addr : Nat)
  /-- Code 6, BoundsFault(Keypad), raised by SkipKeyPressed or SkipKeyNotPressed with a key index above 15 (R209,
  R224); safe (D14, log 18). -/
  | boundsKeypad (key : Byte)
  /-- Code 7, raised by load_program only, never by a step (R225). -/
  | resourceError (kind : ResourceKind)
  deriving DecidableEq, Repr

/-- Refusals. No arm of exec answers one: every instruction has its meaning. -/
inductive Refusal where
  /-- An instruction without a meaning, named as spec/opcode_table.json names it; raised by exec alone; safe. -/
  | notModelled (mnemonic : String)
  deriving DecidableEq, Repr

/-- Memory: the bytes that differ from what an unlisted address reads as, by strictly rising address (R50). -/
abbrev Memory := List Host.Cell

/-- The framebuffer: 32 rows of 64 pixels (R30). -/
abbrev Framebuffer := Vector (Vector Bool 64) 32

/-- The keypad snapshot: KEY(0..15) (R31). -/
abbrev Keypad := Vector Bool 16

/-- What the driver may do to the core between two steps (R31, R197, R254). -/
inductive HostInput where
  /-- One call of tick() (R196). -/
  | tick
  /-- A new keypad snapshot (R31). -/
  | keys (snapshot : Keypad)
  deriving DecidableEq, Repr

/-- The whole machine: R29's list, the collaborators' state R30 and R31, the fault record R34, the parameter
SHIFT_USES_VY, and two fields of the model's own. -/
structure State where
  /-- V0..VF (R20). -/
  v : Vector Byte 16
  /-- The index register I (R23). -/
  i : Word
  /-- The program counter PC (R24; log 28). -/
  pc : Word
  /-- The stack pointer SP: entries in use, 0..16 (R25). -/
  sp : Fin 17
  /-- STACK[0..15] (R25, R33; log 28). -/
  stack : Vector Word 16
  /-- The delay timer DT (R27). -/
  dt : Byte
  /-- The sound timer ST (R27). -/
  st : Byte
  /-- The 4096 memory bytes (R50). -/
  mem : Memory
  /-- The framebuffer FB (R30). -/
  fb : Framebuffer
  /-- The keypad snapshot KEY (R31). -/
  key : Keypad
  /-- The fault recorded, if any; with one recorded the core is stopped (R34, R229). -/
  fault : Option Fault
  /-- The parameter SHIFT_USES_VY (R8); no step changes it (log 5). -/
  shiftUsesVy : Bool
  /-- The model's own: random bytes drawn so far (log 4). -/
  draws : Nat
  /-- The model's own: what the driver does before each coming step, nearest first; past its end, nothing (log 3). -/
  schedule : List (List HostInput)
  deriving DecidableEq, Repr

/-- The machine right after reset (R250, R34): nothing loaded, so memory lists nothing. -/
def State.reset : State where
  v := Vector.replicate 16 resetByteRegister
  i := resetWordRegister
  pc := entryPc
  sp := 0
  stack := Vector.replicate 16 resetWordRegister
  dt := resetByteRegister
  st := resetByteRegister
  mem := []
  fb := Vector.replicate 32 (Vector.replicate 64 initPixel)
  key := Vector.replicate 16 initKey
  fault := none
  shiftUsesVy := shiftUsesVyDefault
  draws := 0
  schedule := []

end Sys2Proof.Machine
end

