-- ==== Sys2Proof/Machine/Ops.lean ====
section
/-! DEFINITION. Machine/Ops.lean: the named operations over registers, memory, stack, timers, framebuffer and keypad
(00_scope.md R11), raising a fault, and fetching. -/

namespace Sys2Proof.Machine

/-- What an instruction's meaning answers. -/
abbrev Result := Host.Outcome State Fault Refusal

/-! ### Faults -/

/-- `raise F(info)` (R11): the one way a meaning stops. The machine has no trap vector, no saved registers and no
return from a trap (R220, R229): the outcome carries the record and no state, since a fault changes none (R226; log 31). -/
def raise (f : Fault) : Result := .fault f

/-- The code of a fault (R227, decision D12; log 29). -/
def faultCode : Fault → Nat
  | .decodeError _ => 1
  | .stackOverflow _ => 2
  | .stackUnderflow _ => 3
  | .boundsFetch _ => 4
  | .boundsIndex _ => 5
  | .boundsKeypad _ => 6
  | .resourceError _ => 7

/-- An operation that may fault, as a meaning's answer. -/
def finish : Except Fault State → Result
  | .ok s => .next s
  | .error f => raise f

/-! ### Registers -/

/-- `V[r]` (R11). -/
def State.reg (s : State) (r : Reg) : Byte := s.v[r]

/-- `V[r] <- b` (R11). -/
def State.setReg (s : State) (r : Reg) (b : Byte) : State := { s with v := s.v.set r b }

/-- `I <- w` (R11). -/
def State.setI (s : State) (w : Word) : State := { s with i := w }

/-- `PC <- w` (R11). -/
def State.setPc (s : State) (w : Word) : State := { s with pc := w }

/-- `DT <- b` (R11). -/
def State.setDt (s : State) (b : Byte) : State := { s with dt := b }

/-- `ST <- b` (R11). -/
def State.setSt (s : State) (b : Byte) : State := { s with st := b }

/-- The default advance: PC + 2 (R102). In a step PC is at most 0xFFE, so nothing wraps (R105; log 21). -/
def State.advance (s : State) : State := s.setPc (s.pc + 2)

/-! ### The call stack (R26) -/

/-- push(a): used by Call. -/
def State.push (s : State) (a : Word) : Except Fault State :=
  if h : s.sp.val < 16 then
    .ok { s with stack := s.stack.set s.sp.val a, sp := ⟨s.sp.val + 1, by omega⟩ }
  else .error (.stackOverflow s.pc)

/-- pop(): used by Return; the vacated slot keeps its value (R25, R33). -/
def State.pop (s : State) : Except Fault (Word × State) :=
  if h : 0 < s.sp.val then
    .ok (s.stack[s.sp.val - 1], { s with sp := ⟨s.sp.val - 1, by omega⟩ })
  else .error (.stackUnderflow s.pc)

/-- peek(): the host's diagnostic read; no instruction uses it (R26, decision D29). -/
def State.peek (s : State) : Except Fault Word :=
  if h : 0 < s.sp.val then .ok s.stack[s.sp.val - 1] else .error (.stackUnderflow s.pc)

/-! ### Memory (20_memory.md) -/

/-- `MemRead(a, 1)` for a <= 0xFFF (R54): the byte listed at a, or what an unlisted address reads as. No meaning reads
an address above 0xFFF: it checks its range first (R57). -/
def Memory.read (m : Memory) (a : Nat) : Byte :=
  match m.find? fun c => c.1 == a with
  | some c => c.2
  | none => resetByte a

/-- Put a cell before the first cell of a higher address. -/
def Memory.insert (a : Nat) (b : Byte) : Memory → Memory
  | [] => [(a, b)]
  | c :: m => if a < c.1 then (a, b) :: c :: m else c :: Memory.insert a b m

/-- `MemWrite(a, 1, b)` for a <= 0xFFF (R54), every address writable (R60; log 20). The byte an unlisted address reads as is not
listed. Nothing happens at an address that does not exist; no meaning writes one (R57; log 22). -/
def Memory.write (m : Memory) (a : Nat) (b : Byte) : Memory :=
  if a < Config.memSize then
    if b = resetByte a then m.filter fun c => c.1 != a
    else Memory.insert a b (m.filter fun c => c.1 != a)
  else m

/-- The canonical form: strictly rising addresses below 0x1000, no entry equal to what an unlisted address reads as. -/
def Memory.wf (m : Memory) : Bool :=
  decide (m.Pairwise fun c d => c.1 < d.1)
    && m.all fun c => decide (c.1 < Config.memSize) && c.2 != resetByte c.1

/-- Bytes written at consecutive addresses from a, in order (R58). -/
def Memory.writeBytes (m : Memory) (a : Nat) : List Byte → Memory
  | [] => m
  | b :: bs => Memory.writeBytes (m.write a b) (a + 1) bs

/-- `V[k] <- MemRead(I + k, 1)` for each k of ks, in order (R176). -/
def State.loadRegs (s : State) : List Nat → State
  | [] => s
  | k :: ks => State.loadRegs (s.setReg (Fin.ofNat 16 k) (s.mem.read (s.i.toNat + k))) ks

/-- The memory after a store. -/
def State.setMem (s : State) (m : Memory) : State := { s with mem := m }

/-! ### The framebuffer (R30) -/

/-- `fb_get(x, y)` (R6). -/
def Framebuffer.get (fb : Framebuffer) (x : Fin 64) (y : Fin 32) : Bool := fb[y][x]

/-- `fb_set(x, y, b)` (R6). -/
def Framebuffer.set (fb : Framebuffer) (x : Fin 64) (y : Fin 32) (b : Bool) : Framebuffer :=
  Vector.set fb y (fb[y].set x b)

/-- The framebuffer after `fb_clear()`: every pixel false (R6, R30). -/
def Framebuffer.cleared : Framebuffer := Vector.replicate 32 (Vector.replicate 64 false)

/-- The framebuffer replaced. -/
def State.setFb (s : State) (fb : Framebuffer) : State := { s with fb := fb }

/-! ### The keypad, the random source, the timers -/

/-- `key_pressed(k)` (R31). -/
def State.keyPressed (s : State) (k : Fin 16) : Bool := s.key[k]

/-- The lowest pressed key, scanning 0 to 15 in ascending order (R213). -/
def State.firstKey (s : State) : Option (Fin 16) := (List.finRange 16).find? fun k => s.keyPressed k

/-- One more random byte drawn (log 4). -/
def State.countDraw (s : State) : State := { s with draws := s.draws + 1 }

/-- `rand_byte()`: one free byte, and the state with one more byte drawn (R152, D23; log 4). -/
def State.randByte (s : State) : Byte × State := (Config.randByte s.draws, s.countDraw)

/-- A timer after one tick: one less, never below 0 (R196). -/
def countDown (b : Byte) : Byte := if b = 0 then 0 else b - 1

/-- `tick()`: both timers count down, nothing else changes (R196). -/
def State.tick (s : State) : State := { s with dt := countDown s.dt, st := countDown s.st }

/-- The driver presents a keypad snapshot (R31, R254). -/
def State.setKeys (s : State) (k : Keypad) : State := { s with key := k }

/-- One thing the driver does between two steps (R197, R254). -/
def State.input (s : State) : HostInput → State
  | .tick => s.tick
  | .keys k => s.setKeys k

/-- What the driver does before the coming step, done (log 3). -/
def State.takeInputs (s : State) : State :=
  match s.schedule with
  | [] => s
  | now :: later => now.foldl State.input { s with schedule := later }

/-- The fault record written; nothing else changes (R226, R229). -/
def State.recordFault (s : State) (f : Fault) : State := { s with fault := some f }

/-! ### Fetching -/

/-- `fetch_opcode(a)`: two bytes, the high one at the lower address (R55). -/
def Memory.fetchWord (m : Memory) (a : Nat) : Word := wordOfBytes (m.read a) (m.read (a + 1))

/-- The fetch of a step: both bytes must be in memory (R56, R100, decision D9). -/
def State.fetch (s : State) : Except Fault Word :=
  if s.pc.toNat ≤ 0xFFE then .ok (s.mem.fetchWord s.pc.toNat) else .error (.boundsFetch s.pc)

/-- A word stored where the next step fetches, and whatever else that step needs in order to fetch it: no fault
recorded, and a PC that can be fetched at (one that cannot is put at ENTRY_PC). It stands for the load of a program
(log 1). -/
def State.placeWord (s : State) (w : Word) : State :=
  let pc := if s.pc.toNat ≤ 0xFFE then s.pc else entryPc
  { s with pc := pc, fault := none, mem := s.mem.writeBytes pc.toNat [highByte w, lowByte w] }

end Sys2Proof.Machine
end

