-- ==== Sys2Proof/Machine/Operands.lean ====
section
/-! DEFINITION. Machine/Operands.lean: how operands are assembled (30_encoding.md R73) and the one addressing mode, I plus
a constant offset, with its range check (43_index_memory.md R170, R178). -/

namespace Sys2Proof.Machine

/-- `zext_16` of a byte (R10, R73). -/
def zextByte (b : Byte) : Word := b.setWidth 16

/-- `zext_16` of a 12-bit address (R10, R73). -/
def zextAddr (a : Addr) : Word := a.setWidth 16

/-- The first address I + k, k = 0 .. count-1 in access order, that is above 0xFFF (R170). -/
def firstBadAddr (i : Word) (count : Nat) : Option Nat :=
  ((List.range count).map fun k => i.toNat + k).find? fun a => decide (0xFFF < a)

/-- `check_range(count)` before an instruction's effect (R170): the effect, or BoundsFault(Index) with no effect. -/
def State.inRange (s : State) (count : Nat) (effect : State) : Result :=
  match firstBadAddr s.i count with
  | some a => raise (.boundsIndex a)
  | none => .next effect

/-- `check_key`: the key index V[x] of Ex9E and ExA1, or BoundsFault(Keypad) when it is above 15 (R209, decision D14). -/
def State.keyIndex (s : State) (x : Reg) : Except Fault (Fin 16) :=
  if h : (s.reg x).toNat < 16 then .ok ⟨(s.reg x).toNat, h⟩ else .error (.boundsKeypad (s.reg x))

/-- The source of a shift: Vy when SHIFT_USES_VY, else Vx (R149, R151, D18). -/
def State.shiftSource (s : State) (x y : Reg) : Byte := if s.shiftUsesVy then s.reg y else s.reg x

/-- V0 .. Vx, in order (R175). -/
def State.regsUpTo (s : State) (x : Reg) : List Byte :=
  (List.range (x.val + 1)).map fun k => s.reg (Fin.ofNat 16 k)

/-- The three decimal digits of a byte: hundreds, tens, ones (R174). -/
def bcdDigits (b : Byte) : List Byte :=
  [BitVec.ofNat 8 (b.toNat / 100), BitVec.ofNat 8 (b.toNat / 10 % 10), BitVec.ofNat 8 (b.toNat % 10)]

/-- The address of a glyph: 0x50 + 5 * Vx, the whole byte used (R173). -/
def glyphAddr (b : Byte) : Word := BitVec.ofNat 16 (fontBase + 5 * b.toNat)

end Sys2Proof.Machine
end

