-- ==== Sys2Proof/Machine/Flags.lean ====
section
/-! DEFINITION. Machine/Flags.lean: the flag VF (10_state.md R21), the ALU's results with their flags (42_alu.md R140) and
the skip rule (40_cycle.md R104). The machine has no other condition code (R28). -/

namespace Sys2Proof.Machine

/-- A flag as VF holds it: 1 or 0. -/
def flagByte (b : Bool) : Byte := if b then 1 else 0

/-- The carry of a + b: 1 exactly when the exact sum exceeds 255 (R140). -/
def carryFlag (a b : Byte) : Byte := flagByte (decide (255 < a.toNat + b.toNat))

/-- The inverse of the borrow of p - q: 1 exactly when p >= q (R140). -/
def notBorrowFlag (p q : Byte) : Byte := flagByte (decide (q.toNat ≤ p.toNat))

/-- The bit a right shift by one shifts out: bit 0 (R149). -/
def lowBitFlag (a : Byte) : Byte := flagByte (a.getLsbD 0)

/-- The bit a left shift by one shifts out: bit 7 (R151). -/
def highBitFlag (a : Byte) : Byte := flagByte (a.getLsbD 7)

/-- A result and a flag written in the order of R106: Vx, then VF; then PC. With x = 15 the flag stays (decision D17;
log 16). -/
def State.writeWithFlag (s : State) (x : Reg) (result flag : Byte) : State :=
  ((s.setReg x result).setReg VF flag).advance

/-- The skip rule: net 4 when the condition holds, else 2; the skipped word is neither fetched nor decoded (R104). -/
def State.skipIf (s : State) (cond : Bool) : State := s.setPc (s.pc + if cond then 4 else 2)

end Sys2Proof.Machine
end

