-- ==== Sys2Proof/Machine/Alu.lean ====
section
/-! DEFINITION. Machine/Alu.lean: register loads and the ALU (42_alu.md). Operands are read at the start (R106). -/

namespace Sys2Proof.Machine

/-- SetImm (R141). -/
def execSetImm (x : Reg) (kk : Byte) (s : State) : Result := .next (s.setReg x kk).advance

/-- AddImm (R142): modulo 256, no flag (90_conflicts.md C7). -/
def execAddImm (x : Reg) (kk : Byte) (s : State) : Result := .next (s.setReg x (s.reg x + kk)).advance

/-- Assign (R143). -/
def execAssign (x y : Reg) (s : State) : Result := .next (s.setReg x (s.reg y)).advance

/-- Or (R144): VF is not reset (log 27). -/
def execOr (x y : Reg) (s : State) : Result := .next (s.setReg x (s.reg x ||| s.reg y)).advance

/-- And (R145): VF is not reset (log 27). -/
def execAnd (x y : Reg) (s : State) : Result := .next (s.setReg x (s.reg x &&& s.reg y)).advance

/-- Xor (R146): VF is not reset (log 27). -/
def execXor (x y : Reg) (s : State) : Result := .next (s.setReg x (s.reg x ^^^ s.reg y)).advance

/-- Add (R147): the sum modulo 256; VF = carry. -/
def execAdd (x y : Reg) (s : State) : Result :=
  .next (s.writeWithFlag x (s.reg x + s.reg y) (carryFlag (s.reg x) (s.reg y)))

/-- Sub (R148): Vx - Vy modulo 256; VF = not borrow. -/
def execSub (x y : Reg) (s : State) : Result :=
  .next (s.writeWithFlag x (s.reg x - s.reg y) (notBorrowFlag (s.reg x) (s.reg y)))

/-- ShiftRight (R149): zero enters bit 7; VF = the bit shifted out. -/
def execShiftRight (x y : Reg) (s : State) : Result :=
  .next (s.writeWithFlag x (s.shiftSource x y >>> 1) (lowBitFlag (s.shiftSource x y)))

/-- ReverseSub (R150): Vy - Vx modulo 256; VF = not borrow. -/
def execReverseSub (x y : Reg) (s : State) : Result :=
  .next (s.writeWithFlag x (s.reg y - s.reg x) (notBorrowFlag (s.reg y) (s.reg x)))

/-- ShiftLeft (R151): zero enters bit 0; VF = the bit shifted out. -/
def execShiftLeft (x y : Reg) (s : State) : Result :=
  .next (s.writeWithFlag x (s.shiftSource x y <<< 1) (highBitFlag (s.shiftSource x y)))

/-- RandomAnd (R152): exactly one byte is drawn; Vx <- byte AND kk. -/
def execRandomAnd (x : Reg) (kk : Byte) (s : State) : Result :=
  .next (s.randByte.2.setReg x (s.randByte.1 &&& kk)).advance

end Sys2Proof.Machine
end

