-- ==== Sys2Proof/Machine/Control.lean ====
section
/-! DEFINITION. Machine/Control.lean: control transfer and the register skips (41_control.md). -/

namespace Sys2Proof.Machine

/-- Return (R120): pop; PC <- popped + RETURN_ADVANCE (decision D8; log 13). -/
def execRet (s : State) : Result :=
  match s.pop with
  | .ok (a, t) => .next (t.setPc (a + returnAdvance))
  | .error f => raise f

/-- Jump (R121). -/
def execJump (nnn : Addr) (s : State) : Result := .next (s.setPc (zextAddr nnn))

/-- Call (R122): push the address of this Call, not PC + 2; PC <- nnn. -/
def execCall (nnn : Addr) (s : State) : Result :=
  match s.push s.pc with
  | .ok t => .next (t.setPc (zextAddr nnn))
  | .error f => raise f

/-- SkipEqImm (R123). -/
def execSkipEqImm (x : Reg) (kk : Byte) (s : State) : Result := .next (s.skipIf (s.reg x == kk))

/-- SkipNeImm (R124). -/
def execSkipNeImm (x : Reg) (kk : Byte) (s : State) : Result := .next (s.skipIf (s.reg x != kk))

/-- SkipEqReg (R125). -/
def execSkipEqReg (x y : Reg) (s : State) : Result := .next (s.skipIf (s.reg x == s.reg y))

/-- SkipNeReg (R126). -/
def execSkipNeReg (x y : Reg) (s : State) : Result := .next (s.skipIf (s.reg x != s.reg y))

/-- JumpOffset (R127): PC <- nnn + V0, exact, not reduced modulo 0x1000 (decision D9). -/
def execJumpOffset (nnn : Addr) (s : State) : Result := .next (s.setPc (zextAddr nnn + zextByte (s.reg 0)))

end Sys2Proof.Machine
end

