-- ==== Sys2Proof/Machine/Display.lean ====
section
/-! DEFINITION. Machine/Display.lean: the framebuffer write controller (45_display_keypad.md R200 to R205). -/

namespace Sys2Proof.Machine

/-- One set sprite bit at (px, py): the pixel becomes its complement, and a pixel that was on is a collision (R204). -/
def plot (px : Fin 64) (py : Fin 32) (acc : Framebuffer × Bool) : Framebuffer × Bool :=
  (acc.1.set px py (!(acc.1.get px py)), acc.2 || acc.1.get px py)

/-- Column col of a row's byte, most significant bit first, at column (px0 + col) mod 64 (R204). -/
def drawBit (b : Byte) (px0 : Byte) (py : Fin 32) (acc : Framebuffer × Bool) (col : Nat) : Framebuffer × Bool :=
  if b.getLsbD (7 - col) then plot (Fin.ofNat 64 (px0.toNat + col)) py acc else acc

/-- One row of a sprite: its 8 columns, left to right (R204). -/
def drawRow (b : Byte) (px0 : Byte) (py : Fin 32) (acc : Framebuffer × Bool) : Framebuffer × Bool :=
  (List.range 8).foldl (drawBit b px0 py) acc

/-- Row `row` of a sprite at I + row, drawn on line (py0 + row) mod 32 (R204). -/
def drawSpriteRow (s : State) (px0 py0 : Byte) (acc : Framebuffer × Bool) (row : Nat) : Framebuffer × Bool :=
  drawRow (s.mem.read (s.i.toNat + row)) px0 (Fin.ofNat 32 (py0.toNat + row)) acc

/-- A sprite of n rows at (px0, py0): the new framebuffer, and whether any pixel collided (R204). -/
def drawSprite (s : State) (px0 py0 : Byte) (n : Nat) : Framebuffer × Bool :=
  (List.range n).foldl (drawSpriteRow s px0 py0) (s.fb, false)

/-- ClearDisplay (R200). -/
def execClearDisplay (s : State) : Result := .next (s.setFb Framebuffer.cleared).advance

/-- Draw (R204): the coordinates are read before VF is written (decision D16; log 16). -/
def execDraw (x y : Reg) (n : Fin 16) (s : State) : Result :=
  let drawn := drawSprite s (s.reg x) (s.reg y) n.val
  s.inRange n.val ((s.setFb drawn.1).setReg VF (flagByte drawn.2)).advance

end Sys2Proof.Machine
end

