-- ==== Sys2Proof/Machine/Index.lean ====
section
/-! DEFINITION. Machine/Index.lean: the index register and memory transfers (43_index_memory.md). No access changes I
(R178, decision D20; log 17); every range is checked before anything changes (R170; log 18). -/

namespace Sys2Proof.Machine

/-- SetIndex (R171). -/
def execSetIndex (nnn : Addr) (s : State) : Result := .next (s.setI (zextAddr nnn)).advance

/-- AddIndex (R172): modulo 2^16 (decision D19; log 19), no flag, no check. -/
def execAddIndex (x : Reg) (s : State) : Result := .next (s.setI (s.i + zextByte (s.reg x))).advance

/-- SetIndexGlyph (R173): the whole 8-bit Vx, no mask. -/
def execSetIndexGlyph (x : Reg) (s : State) : Result := .next (s.setI (glyphAddr (s.reg x))).advance

/-- BcdStore (R174): hundreds, tens and ones at I, I+1, I+2. -/
def execBcdStore (x : Reg) (s : State) : Result :=
  s.inRange 3 (s.setMem (s.mem.writeBytes s.i.toNat (bcdDigits (s.reg x)))).advance

/-- RegisterDump (R175): V0..Vx at I..I+x. -/
def execRegisterDump (x : Reg) (s : State) : Result :=
  s.inRange (x.val + 1) (s.setMem (s.mem.writeBytes s.i.toNat (s.regsUpTo x))).advance

/-- RegisterLoad (R176): V0..Vx from I..I+x. -/
def execRegisterLoad (x : Reg) (s : State) : Result :=
  s.inRange (x.val + 1) (s.loadRegs (List.range (x.val + 1))).advance

end Sys2Proof.Machine
end

