-- ==== Sys2Proof/Machine/Keys.lean ====
section
/-! DEFINITION. Machine/Keys.lean: the keypad instructions (45_display_keypad.md R209 to R214). -/

namespace Sys2Proof.Machine

/-- SkipKeyPressed (R210); a key index above 15 faults (R209). -/
def execSkipKeyPressed (x : Reg) (s : State) : Result :=
  match s.keyIndex x with
  | .ok k => .next (s.skipIf (s.keyPressed k))
  | .error f => raise f

/-- SkipKeyNotPressed (R211); a key index above 15 faults (R209). -/
def execSkipKeyNotPressed (x : Reg) (s : State) : Result :=
  match s.keyIndex x with
  | .ok k => .next (s.skipIf (!(s.keyPressed k)))
  | .error f => raise f

/-- WaitKey (R213): the lowest pressed key into Vx and the default advance, in one step (decision D15; log 15). With no
key pressed the step is suspended: the next state is the same state, PC not advanced (R214; log 2). -/
def execWaitKey (x : Reg) (s : State) : Result :=
  match s.firstKey with
  | some k => .next (s.setReg x (BitVec.ofNat 8 k.val)).advance
  | none => .next s

end Sys2Proof.Machine
end

