-- ==== Sys2Proof/Machine/Timers.lean ====
section
/-! DEFINITION. Machine/Timers.lean: the timer instructions (44_timers.md R193). The countdown itself is State.tick
(Ops.lean, R196). -/

namespace Sys2Proof.Machine

/-- GetDelay (R190). -/
def execGetDelay (x : Reg) (s : State) : Result := .next (s.setReg x s.dt).advance

/-- SetDelay (R191). -/
def execSetDelay (x : Reg) (s : State) : Result := .next (s.setDt (s.reg x)).advance

/-- SetSound (R192); sound output is out of scope (R4, D32). -/
def execSetSound (x : Reg) (s : State) : Result := .next (s.setSt (s.reg x)).advance

end Sys2Proof.Machine
end

