-- ==== Sys2Proof/Machine/Cycle.lean ====
section
/-! DEFINITION. Machine/Cycle.lean: the execution cycle, step() of 40_cycle.md R100, and the suspended condition. -/

namespace Sys2Proof.Machine

/-- The decoded word executed, or DecodeError with the word (R100, R221). -/
def State.runWord (s : State) (op : Word) : Result :=
  match decode op with
  | .ok i => exec i s
  | .error _ => raise (.decodeError op)

/-- `step()` of R100: fetch, decode, execute, with the faults in the order of R228. A core whose fault is recorded
takes no further step: it answers that fault again (R229). -/
def cycle (s : State) : Result :=
  match s.fault with
  | some f => raise f
  | none =>
    match s.fetch with
    | .ok op => s.runWord op
    | .error f => raise f

/-- The suspended condition, which is not stored (R32): the instruction at PC is WaitKey and no key is pressed. -/
def State.isSuspended (s : State) : Bool :=
  match s.fault, s.fetch with
  | none, .ok op =>
    match decode op with
    | .ok (.waitKey _) => s.firstKey.isNone
    | _ => false
  | _, _ => false

end Sys2Proof.Machine
end

