-- ==== Sys2Proof/Machine/Step.lean ====
section
/-! DEFINITION. Machine/Step.lean: the machine's step, and the placing of a word where it fetches. -/

namespace Sys2Proof.Machine

/-- One step of the machine: what the driver's schedule puts before it (R197, R31; log 3), then step() of R100. With an
empty schedule it is step() alone. -/
def step (s : State) : Host.Outcome State Fault Refusal := cycle s.takeInputs

/-- The state whose next step runs the instruction of bits w (bits above nbits 0): the word stored at PC, no fault
recorded (log 1). -/
def State.withFetchWord (s : State) (nbits w : Nat) : State := s.placeWord (BitVec.ofNat 16 (w % 2 ^ nbits))

end Sys2Proof.Machine
end

