-- ==== Sys2Proof/Machine/Driver.lean ====
section
/-! DEFINITION. Machine/Driver.lean: the driver's calls (00_scope.md R6; 70_reset_and_hazards.md R250 to R254): step with
its three outcomes (R101), tick, keypad snapshots, load_program, and construction with the parameters of R8. -/

namespace Sys2Proof.Machine

/-- The outcome of a step() call as the driver sees it (R101). -/
inductive StepReply where
  /-- The instruction completed. -/
  | ok
  /-- WaitKey found no key; nothing changed (R214). -/
  | suspended
  /-- The step faulted; nothing changed but the fault record (R226, R229). -/
  | fault (f : Fault)
  /-- An instruction without a meaning: no instruction is one. -/
  | refused (r : Refusal)
  deriving DecidableEq, Repr

/-- A step() call: the reply, and the state after it. -/
def State.callStep (s : State) : StepReply × State :=
  match cycle s with
  | .next t => (if s.isSuspended then .suspended else .ok, t)
  | .fault f => (.fault f, s.recordFault f)
  | .refused r => (.refused r, s)

/-- `load_program(bytes)` (R252): the image at 0x200, or ResourceError and nothing loaded; none is an image that cannot
be read (R225). That it is called only before the first step is the driver's to keep (log 23). -/
def State.loadProgram (s : State) : Option (List Byte) → Result
  | none => raise (.resourceError .unreadable)
  | some image =>
    if image.length ≤ Config.maxImage then .next (s.setMem (s.mem.writeBytes entryPc.toNat image))
    else raise (.resourceError .imageTooLarge)

/-- The driver's calls. -/
inductive HostCall where
  /-- step(). -/
  | step
  /-- tick(), or a new keypad snapshot. -/
  | input (h : HostInput)
  /-- load_program(bytes). -/
  | load (image : Option (List Byte))
  deriving DecidableEq, Repr

/-- The state after a call of the driver; a fault is recorded (R225, R229; log 26). -/
def State.call (s : State) : HostCall → State
  | .step => s.callStep.2
  | .input h => s.input h
  | .load image =>
    match s.loadProgram image with
    | .next t => t
    | .fault f => s.recordFault f
    | .refused _ => s

/-- A run: the driver's calls, one at a time, in any order and number (R61, R197). -/
def State.calls (s : State) (cs : List HostCall) : State := cs.foldl State.call s

/-- Reset with the open parameters of R8: any font (log 6), any initial framebuffer (log 10), either shift (log 5). -/
def State.resetWith (font : List Byte) (fb : Framebuffer) (shiftUsesVy : Bool) : State :=
  { State.reset with
    mem := Memory.writeBytes [] fontBase (font.take 80), fb := fb, shiftUsesVy := shiftUsesVy }

end Sys2Proof.Machine
end

