-- ==== Sys2Proof/Safety.lean ====
section
/-! DEFINITION. Safety.lean: the words the claims are stated in: the parts of the state and which of them an instruction
may change (10_state.md R22 to R31), the registers it reads (R22), where it faults (60_exceptions.md R227), the end of
a run (R255), and the invariant of the machine. -/

namespace Sys2Proof.Machine

/-! ### Parts of the state -/

/-- One separately observable part of the state, the program counter apart. -/
inductive Part where
  /-- V[r]. -/
  | reg (r : Reg)
  /-- I. -/
  | index
  /-- SP. -/
  | sp
  /-- STACK[j]. -/
  | slot (j : Fin 16)
  /-- DT. -/
  | delay
  /-- ST. -/
  | sound
  /-- The byte of memory at a. -/
  | byte (a : Nat)
  /-- FB(x, y). -/
  | pixel (x : Fin 64) (y : Fin 32)
  /-- KEY(k). -/
  | key (k : Fin 16)
  /-- The fault record. -/
  | faultRecord
  /-- SHIFT_USES_VY. -/
  | quirk
  /-- The count of random bytes drawn. -/
  | draws
  /-- The driver's schedule. -/
  | schedule
  deriving DecidableEq, Repr

/-- Part p reads the same in both states. -/
def Part.same (p : Part) (s t : State) : Prop :=
  match p with
  | .reg r => t.reg r = s.reg r
  | .index => t.i = s.i
  | .sp => t.sp = s.sp
  | .slot j => t.stack[j] = s.stack[j]
  | .delay => t.dt = s.dt
  | .sound => t.st = s.st
  | .byte a => t.mem.read a = s.mem.read a
  | .pixel x y => t.fb.get x y = s.fb.get x y
  | .key k => t.keyPressed k = s.keyPressed k
  | .faultRecord => t.fault = s.fault
  | .quirk => t.shiftUsesVy = s.shiftUsesVy
  | .draws => t.draws = s.draws
  | .schedule => t.schedule = s.schedule

/-- Every part outside `changed` reads the same in both states; the program counter may differ. -/
def KeepsBut (changed : Part → Bool) (s t : State) : Prop := ∀ p, changed p = false → p.same s t

/-- Every part reads the same in both states; the program counter may differ. -/
def KeepsAll (s t : State) : Prop := ∀ p : Part, p.same s t

/-- The keypad snapshot an input of the driver presents, if it presents one (R31). -/
def snapshotOf : HostInput → Option Keypad
  | .keys k => some k
  | .tick => none

/-! ### What an instruction may change -/

/-- The "writes" column of R22: the general registers an instruction writes. -/
def writesReg (i : Instr) (r : Reg) : Bool :=
  match i with
  | .setImm x _ | .addImm x _ | .randomAnd x _ => r == x
  | .assign x _ | .or x _ | .and x _ | .xor x _ => r == x
  | .add x _ | .sub x _ | .shiftRight x _ | .reverseSub x _ | .shiftLeft x _ => r == x || r == VF
  | .draw _ _ _ => r == VF
  | .getDelay x | .waitKey x => r == x
  | .registerLoad x => decide (r ≤ x)
  | .clearDisplay | .ret | .jump _ | .call _ | .jumpOffset _ => false
  | .skipEqImm _ _ | .skipNeImm _ _ | .skipEqReg _ _ | .skipNeReg _ _ => false
  | .skipKeyPressed _ | .skipKeyNotPressed _ | .setIndex _ => false
  | .setDelay _ | .setSound _ | .addIndex _ | .setIndexGlyph _ | .bcdStore _ | .registerDump _ => false

/-- The "reads" column of R22: the general registers an instruction reads. -/
def readsReg (i : Instr) (usesVy : Bool) (r : Reg) : Bool :=
  match i with
  | .skipEqImm x _ | .skipNeImm x _ | .addImm x _ => r == x
  | .skipEqReg x y | .skipNeReg x y => r == x || r == y
  | .assign _ y => r == y
  | .or x y | .and x y | .xor x y | .add x y | .sub x y | .reverseSub x y => r == x || r == y
  | .shiftRight x y | .shiftLeft x y => if usesVy then r == y else r == x
  | .jumpOffset _ => r == 0
  | .draw x y _ => r == x || r == y
  | .skipKeyPressed x | .skipKeyNotPressed x => r == x
  | .setDelay x | .setSound x | .addIndex x | .setIndexGlyph x | .bcdStore x => r == x
  | .registerDump x => decide (r ≤ x)
  | .setImm _ _ | .randomAnd _ _ | .getDelay _ | .waitKey _ | .registerLoad _ => false
  | .clearDisplay | .ret | .jump _ | .call _ | .setIndex _ => false

/-- The registers an instruction writes in state s when it answers a next state: those of R22, except that a WaitKey
that finds no key writes none (R214). -/
def writesNow (i : Instr) (s : State) (r : Reg) : Bool :=
  match i with
  | .waitKey x => r == x && s.firstKey.isSome
  | _ => writesReg i r

/-- The sprite bit that Draw with n rows at (px0, py0) lays on pixel (qx, qy): bit 7 - col of the byte at I + row, for
the col < 8 and row < n that wrap to it (R204); false outside the sprite. -/
def spriteBit (s : State) (px0 py0 : Byte) (n : Nat) (qx : Fin 64) (qy : Fin 32) : Bool :=
  let col := (qx.val + 64 - px0.toNat % 64) % 64
  let row := (qy.val + 32 - py0.toNat % 32) % 32
  decide (col < 8) && decide (row < n) && (s.mem.read (s.i.toNat + row)).getLsbD (7 - col)

/-- The parts an instruction may change, the program counter apart: registers by R22, I by R23, SP and the slot pushed
by R26, timers by R27, the bytes stored by R174 and R175 at the addresses from I, pixels by R200 and R204. -/
def mayChange (i : Instr) (s : State) : Part → Bool
  | .reg r => writesReg i r
  | .index =>
    match i with
    | .setIndex _ | .addIndex _ | .setIndexGlyph _ => true
    | _ => false
  | .sp =>
    match i with
    | .ret | .call _ => true
    | _ => false
  | .slot j =>
    match i with
    | .call _ => j.val == s.sp.val
    | _ => false
  | .delay =>
    match i with
    | .setDelay _ => true
    | _ => false
  | .sound =>
    match i with
    | .setSound _ => true
    | _ => false
  | .byte a =>
    match i with
    | .bcdStore _ => decide (s.i.toNat ≤ a ∧ a < s.i.toNat + 3)
    | .registerDump x => decide (s.i.toNat ≤ a ∧ a ≤ s.i.toNat + x.val)
    | _ => false
  | .pixel qx qy =>
    match i with
    | .clearDisplay => true
    | .draw x y n => spriteBit s (s.reg x) (s.reg y) n.val qx qy
    | _ => false
  | .draws =>
    match i with
    | .randomAnd _ _ => true
    | _ => false
  | .key _ | .faultRecord | .quirk | .schedule => false

/-- The kinds of instruction whose frames are stated together. -/
inductive Family where
  /-- Writes registers, from registers, a byte or the random source (42_alu.md). -/
  | alu
  /-- Changes only PC and, for Call and Return, the stack (41_control.md, and the key skips). -/
  | control
  /-- Writes I, a timer, or registers from a timer, a key or memory. -/
  | transfer
  /-- Stores to memory. -/
  | store
  /-- Writes the framebuffer. -/
  | display
  deriving DecidableEq, Repr

/-- The family of an instruction. -/
def familyOf : Instr → Family
  | .setImm _ _ | .addImm _ _ | .assign _ _ | .or _ _ | .and _ _ | .xor _ _ => .alu
  | .add _ _ | .sub _ _ | .shiftRight _ _ | .reverseSub _ _ | .shiftLeft _ _ | .randomAnd _ _ => .alu
  | .ret | .jump _ | .call _ | .jumpOffset _ => .control
  | .skipEqImm _ _ | .skipNeImm _ _ | .skipEqReg _ _ | .skipNeReg _ _ => .control
  | .skipKeyPressed _ | .skipKeyNotPressed _ => .control
  | .setIndex _ | .addIndex _ | .setIndexGlyph _ | .getDelay _ | .setDelay _ | .setSound _ => .transfer
  | .waitKey _ | .registerLoad _ => .transfer
  | .bcdStore _ | .registerDump _ => .store
  | .clearDisplay | .draw _ _ _ => .display

/-- Does the instruction's rule set PC itself: the control transfers (R103) and the six skips (R104)? -/
def setsPc : Instr → Bool
  | .ret | .jump _ | .call _ | .jumpOffset _ => true
  | .skipEqImm _ _ | .skipNeImm _ _ | .skipEqReg _ _ | .skipNeReg _ _ => true
  | .skipKeyPressed _ | .skipKeyNotPressed _ => true
  | _ => false

/-- The condition of a skip (R123 to R126, R210, R211); none for any other instruction. With a key index above 15 the
key skips fault, and no condition is tested (R209). -/
def skipCondition (i : Instr) (s : State) : Option Bool :=
  match i with
  | .skipEqImm x kk => some (s.reg x == kk)
  | .skipNeImm x kk => some (s.reg x != kk)
  | .skipEqReg x y => some (s.reg x == s.reg y)
  | .skipNeReg x y => some (s.reg x != s.reg y)
  | .skipKeyPressed x => some (s.keyPressed (Fin.ofNat 16 (s.reg x).toNat))
  | .skipKeyNotPressed x => some (!(s.keyPressed (Fin.ofNat 16 (s.reg x).toNat)))
  | _ => none

/-! ### Where an instruction faults -/

/-- How many bytes from I an instruction touches (R58). -/
def bytesTouched : Instr → Nat
  | .draw _ _ n => n.val
  | .bcdStore _ => 3
  | .registerDump x | .registerLoad x => x.val + 1
  | _ => 0

/-- BoundsFault(Index) when one of n bytes from I is out of memory: with the first bad address (R170). -/
def rangeFault (s : State) (n : Nat) : Option Fault :=
  if 0 < n ∧ 0x1000 < s.i.toNat + n then some (.boundsIndex (max s.i.toNat 0x1000)) else none

/-- An instruction's own fault, if it has one in state s: R227's "raised by" column with the conditions of R122, R120,
R170 and R209. -/
def ownFault (i : Instr) (s : State) : Option Fault :=
  match i with
  | .call _ => if s.sp.val = 16 then some (.stackOverflow s.pc) else none
  | .ret => if s.sp.val = 0 then some (.stackUnderflow s.pc) else none
  | .skipKeyPressed x | .skipKeyNotPressed x =>
    if 15 < (s.reg x).toNat then some (.boundsKeypad (s.reg x)) else none
  | .draw _ _ n => rangeFault s n.val
  | .bcdStore _ => rangeFault s 3
  | .registerDump x | .registerLoad x => rangeFault s (x.val + 1)
  | _ => none

/-! ### Ends and invariants -/

/-- The end of a successful run (R255, decision D28; log 30): no fault recorded, and the instruction at PC jumps to its
own address. -/
def State.isEnded (s : State) : Bool :=
  match s.fault, s.fetch with
  | none, .ok op =>
    match decode op with
    | .ok (.jump nnn) => nnn.toNat == s.pc.toNat
    | _ => false
  | _, _ => false

/-- The invariant of the machine: memory in canonical form, PC at most 0x10FE (R24, R105), and every stack slot an
address a Call can have (R122: at most 0xFFE). -/
def State.inv (s : State) : Bool :=
  s.mem.wf && decide (s.pc.toNat ≤ 0x10FE) && decide (∀ j : Fin 16, (s.stack[j]).toNat ≤ 0xFFE)

/-- Both outcomes are of one kind, faults the same, and next states related by `rel`. -/
def Agree (rel : State → State → Prop) : Result → Result → Prop
  | .next t, .next u => rel t u
  | .fault f, .fault g => f = g
  | .refused r, .refused q => r = q
  | _, _ => False

end Sys2Proof.Machine
end

