-- ==== Sys2Proof/Certificates/Slice0/Obligations.lean ====
section
/-! DEFINITION. Certificates/Slice0/Obligations.lean: what is claimed of the machine, from the numbered rules of spec/.
A clause that rests on one of the spec's own decisions (92_eei_decisions.md) or on a choice of the model names it. -/

open Sys2Proof Sys2Proof.Machine

/-! ### Encoding (30_encoding.md) -/

/-- Every instruction, with every operand at every value its field admits, decodes from its own word. The pairing of
sub-codes with operations is the spec's decision D7 (log 14). -/
def Obligations.DecodeOfEncodeIsTheInstruction : Prop :=
  ∀ i : Instr, decode (encode i) = .ok i

/-- A word that decodes is the word of the instruction it decodes to: no two words mean one instruction. -/
def Obligations.EncodeOfDecodeIsTheWord : Prop :=
  ∀ (w : Word) (i : Instr), decode w = .ok i → encode i = w

/-- The decoder rejects exactly the words R77 lists, keeping the word, and gives every other an instruction. -/
def Obligations.DecodeRejectsExactlyTheIllegalWords : Prop :=
  ∀ w : Word, (illegalWord w = true → decode w = .error (.illegal w)) ∧
    (illegalWord w = false → ∃ i, decode w = .ok i)

/-- The table's 34 rows never overlap, and together they accept exactly the words that R77 does not list. -/
def Obligations.OpcodeRowsPartitionTheLegalWords : Prop :=
  OpcodeRow.table.length = 34 ∧
    OpcodeRow.table.Pairwise (fun r q => ∀ w, ¬(r.accepts w = true ∧ q.accepts w = true)) ∧
    ∀ w, wellFormedWord w = !(illegalWord w)

/-- The source's decoding examples; and the shifts carry the word's y although the default shift does not read Vy
(R76). -/
def Obligations.SourceDecodingExamples : Prop :=
  decode 0x1FA3 = .ok (.jump 0xFA3) ∧
    decode 0x8BC6 = .ok (.shiftRight 0xB 0xC) ∧
    decode 0xF265 = .ok (.registerLoad 0x2) ∧
    (∀ (w : Word) (x y : Reg), decode w = .ok (.shiftRight x y) ∨ decode w = .ok (.shiftLeft x y) →
      opX w = x ∧ opY w = y) ∧
    ∀ (x y z : Reg) (s : State), s.shiftUsesVy = false →
      exec (.shiftRight x y) s = exec (.shiftRight x z) s ∧ exec (.shiftLeft x y) s = exec (.shiftLeft x z) s

/-- At least one word of each of the families 0 to F, written out from R72's formats, decodes to its instruction, and two
illegal words are refused (95_test_vectors.md 2.1). The pairing of sub-codes with operations is the spec's decision D7
(log 14). -/
def Obligations.WordsOfEveryFamilyDecode : Prop :=
  decode 0x00E0 = .ok .clearDisplay ∧ decode 0x00EE = .ok .ret ∧ decode 0x1000 = .ok (.jump 0x000) ∧
    decode 0x2FFF = .ok (.call 0xFFF) ∧ decode 0x3F00 = .ok (.skipEqImm 0xF 0x00) ∧
    decode 0x4A7E = .ok (.skipNeImm 0xA 0x7E) ∧ decode 0x5AB0 = .ok (.skipEqReg 0xA 0xB) ∧
    decode 0x6000 = .ok (.setImm 0x0 0x00) ∧ decode 0x7FFF = .ok (.addImm 0xF 0xFF) ∧
    decode 0x8AB7 = .ok (.reverseSub 0xA 0xB) ∧ decode 0x9AB0 = .ok (.skipNeReg 0xA 0xB) ∧
    decode 0xA123 = .ok (.setIndex 0x123) ∧ decode 0xBFFF = .ok (.jumpOffset 0xFFF) ∧
    decode 0xC000 = .ok (.randomAnd 0x0 0x00) ∧ decode 0xD120 = .ok (.draw 0x1 0x2 0) ∧ decode 0xE1A1 = .ok (.skipKeyNotPressed 0x1) ∧
    decode 0xF10A = .ok (.waitKey 0x1) ∧ decode 0xF133 = .ok (.bcdStore 0x1) ∧
    decode 0x0123 = .error (.illegal 0x0123) ∧ decode 0x8ABF = .error (.illegal 0x8ABF)

/-! ### The cycle (40_cycle.md) and faults (60_exceptions.md) -/

/-- When no fault is recorded and the two bytes at PC decode to i, a step takes what the driver scheduled before it
(log 3) and is exec of i; with nothing scheduled it is exec of i alone (R100). -/
def Obligations.StepRunsTheDecodedInstruction : Prop :=
  ∀ (s : State) (i : Instr), s.fault = none → s.pc.toNat ≤ 0xFFE →
    decode (wordOfBytes (s.mem.read s.pc.toNat) (s.mem.read (s.pc.toNat + 1))) = .ok i →
    step s = exec i s.takeInputs ∧ (s.schedule = [] → step s = exec i s)

/-- What the driver schedules before a step lands there and nowhere else: each tick counts both timers down, never
below 0, the last keypad snapshot is KEY, and nothing else of the state changes (R31, R196, R197; the schedule as a
field is the model's, log 3). -/
def Obligations.InputsLandBeforeTheInstruction : Prop :=
  ∀ (s : State) (now : List HostInput) (later : List (List HostInput)), s.schedule = now :: later →
    s.takeInputs.schedule = later ∧
      s.takeInputs.dt.toNat = s.dt.toNat - now.count .tick ∧
      s.takeInputs.st.toNat = s.st.toNat - now.count .tick ∧
      s.takeInputs.key = (now.reverse.findSome? snapshotOf).getD s.key ∧
      s.takeInputs.pc = s.pc ∧
      KeepsBut (fun p =>
        match p with
        | .delay | .sound | .key _ | .schedule => true
        | _ => false) s s.takeInputs

/-- A fetch reads the bytes at PC and PC + 1, the high byte first, at odd addresses too (R55; the odd ones by decision
D26, log 20). -/
def Obligations.FetchIsBigEndian : Prop :=
  ∀ s : State, s.pc.toNat ≤ 0xFFE →
    ∃ w : Word, s.fetch = .ok w ∧
      w.toNat = (s.mem.read s.pc.toNat).toNat * 256 + (s.mem.read (s.pc.toNat + 1)).toNat

/-- A step whose PC is above 0xFFE faults with that PC (R222; the check at fetch is the spec's decision D9, log 18). -/
def Obligations.FetchOutsideMemoryFaults : Prop :=
  ∀ s : State, s.fault = none → 0xFFE < s.pc.toNat → step s = .fault (.boundsFetch s.pc)

/-- A step whose fetched word is illegal faults with that word (R221). -/
def Obligations.IllegalWordFaultsWithTheWord : Prop :=
  ∀ s : State, s.fault = none → s.pc.toNat ≤ 0xFFE → illegalWord (s.mem.fetchWord s.pc.toNat) = true →
    step s = .fault (.decodeError (s.mem.fetchWord s.pc.toNat))

/-- A word placed where the machine fetches is run by the very next step, from every state (log 1). -/
def Obligations.PlacedWordRunsNext : Prop :=
  ∀ (s : State) (w : Word) (i : Instr), decode w = .ok i →
    step (s.withFetchWord 16 w.toNat) = exec i (s.withFetchWord 16 w.toNat).takeInputs ∧
      (s.withFetchWord 16 w.toNat).fetch = .ok w ∧
      (s.pc.toNat ≤ 0xFFE → (s.withFetchWord 16 w.toNat).pc = s.pc)

/-- A faulting step() call changes nothing but the fault record, PC included, and the next call answers the same fault
and changes nothing (R226, R229; the spec's decision D11, log 12). -/
def Obligations.FaultIsPreciseAndStopsTheCore : Prop :=
  ∀ (s : State) (f : Fault), cycle s = .fault f →
    s.callStep.1 = .fault f ∧ s.callStep.2.fault = some f ∧ s.callStep.2.pc = s.pc ∧
      KeepsBut (fun p => p == .faultRecord) s s.callStep.2 ∧
      s.callStep.2.callStep = (.fault f, s.callStep.2)

/-- An instruction faults exactly in the case R227 lists for it, with the information R227 records (bounds by the
spec's decisions D10 and D14, log 18). -/
def Obligations.InstructionFaultsExactlyWhereListed : Prop :=
  ∀ (i : Instr) (s : State) (f : Fault), exec i s = .fault f ↔ ownFault i s = some f

/-- Every instruction answers a next state in every state but those of its own fault: all 34 constructors, no refusal
anywhere (R78, R231). For a WaitKey that finds no key that next state is the model's rendering of the outcome Suspended,
which R101 sets apart from Ok (log 2). -/
def Obligations.EveryInstructionCompletesUnlessItFaults : Prop :=
  ∀ (i : Instr) (s : State), ownFault i s = none → ∃ t, exec i s = .next t

/-- A step reports at most one fault: fetch bounds, then the illegal word, then the instruction's own (R228; the spec's
decision D13, log 29). -/
def Obligations.StepFaultsInPriorityOrder : Prop :=
  ∀ (s : State) (f : Fault), s.fault = none →
    (step s = .fault f ↔
      (0xFFE < s.pc.toNat ∧ f = .boundsFetch s.pc) ∨
      (s.pc.toNat ≤ 0xFFE ∧ illegalWord (s.mem.fetchWord s.pc.toNat) = true ∧
        f = .decodeError (s.mem.fetchWord s.pc.toNat)) ∨
      (s.pc.toNat ≤ 0xFFE ∧ ∃ i, decode (s.mem.fetchWord s.pc.toNat) = .ok i ∧ ownFault i s.takeInputs = some f))

/-- Every instruction that does not set PC advances it by 2, but for a WaitKey that finds no key, which leaves the state
as it was: that is the outcome Suspended (R214) as the model renders it (log 2). A skip advances by 4 when its condition
holds and by 2 when it does not. Any other instruction is Return, Jump, Call or JumpOffset (R102, R104). -/
def Obligations.DefaultAdvanceIsTwo : Prop :=
  ∀ (i : Instr) (s t : State), exec i s = .next t →
    (setsPc i = false →
      ((∀ x, i = .waitKey x → s.firstKey ≠ none) → t.pc = s.pc + 2) ∧
        ∀ x, i = .waitKey x → s.firstKey = none → t = s) ∧
      (∀ c, skipCondition i s = some c → t.pc = s.pc + if c then 4 else 2) ∧
      (setsPc i = true → skipCondition i s = none →
        i = .ret ∨ ∃ nnn, i = .jump nnn ∨ i = .call nnn ∨ i = .jumpOffset nnn)

/-- A step() call is suspended exactly when the instruction at PC is WaitKey and no key is pressed, and it then changes
nothing (R32, R214; level reading by the spec's decision D15, log 15). -/
def Obligations.SuspendedExactlyAtAWaitKeyWithoutKeys : Prop :=
  ∀ s : State,
    (s.callStep.1 = .suspended ↔
      s.fault = none ∧ s.pc.toNat ≤ 0xFFE ∧ (∀ k, s.keyPressed k = false) ∧
        ∃ x, decode (s.mem.fetchWord s.pc.toNat) = .ok (.waitKey x)) ∧
    (s.callStep.1 = .suspended → s.callStep.2 = s)

/-! ### Control transfer (41_control.md) -/

/-- Return pops the top slot j, resumes 2 past the address in it and leaves every slot as it was; on an empty stack it
faults (R120; the 2 is the spec's decision D8, log 13). -/
def Obligations.ReturnResumesAfterTheCall : Prop :=
  ∀ s : State,
    (∀ j : Fin 16, j.val + 1 = s.sp.val →
      ∃ t, exec .ret s = .next t ∧ t.pc = s.stack[j] + 2 ∧ t.sp.val = j.val ∧
        ∀ k : Fin 16, t.stack[k] = s.stack[k]) ∧
    (s.sp.val = 0 → exec .ret s = .fault (.stackUnderflow s.pc))

/-- Jump, family 1 with nnn, sets PC to its address and changes nothing else; a target of 0xFFF faults at the next fetch; a jump to its own
address leaves the whole state as it was (R121; where that fault comes is the spec's decision D9, log 18). -/
def Obligations.JumpSetsPcToTheAddress : Prop :=
  ∀ (nnn : Addr) (s : State),
    decode (wordAddr 0x1 nnn) = .ok (.jump nnn) ∧
    ∃ t, exec (.jump nnn) s = .next t ∧ t.pc.toNat = nnn.toNat ∧ KeepsAll s t ∧
      (nnn = 0xFFF → s.fault = none → cycle t = .fault (.boundsFetch 0x0FFF)) ∧
      (nnn.toNat = s.pc.toNat → t = s)

/-- Call, family 2 with nnn, pushes its own address into slot SP, not PC + 2 (at most 0xFFE where it could be fetched),
and goes to nnn; with 16 entries in use it faults (R122). -/
def Obligations.CallPushesItsOwnAddress : Prop :=
  ∀ (nnn : Addr) (s : State),
    decode (wordAddr 0x2 nnn) = .ok (.call nnn) ∧
    (∀ j : Fin 16, j.val = s.sp.val →
      ∃ t, exec (.call nnn) s = .next t ∧ t.pc.toNat = nnn.toNat ∧ t.sp.val = s.sp.val + 1 ∧
        t.stack[j] = s.pc ∧ (s.pc.toNat ≤ 0xFFE → (t.stack[j]).toNat ≤ 0xFFE) ∧
        KeepsBut (fun p => p == .sp || p == .slot j) s t) ∧
    (s.sp.val = 16 → exec (.call nnn) s = .fault (.stackOverflow s.pc))

/-- Call then Return restores SP and every part but the slot used, and resumes at the instruction after the Call
(R129; the spec's decision D8, log 13). -/
def Obligations.CallThenReturnResumesAfterTheCall : Prop :=
  ∀ (nnn : Addr) (s : State), s.sp.val < 16 →
    ∃ t u, exec (.call nnn) s = .next t ∧ exec .ret t = .next u ∧ u.pc = s.pc + 2 ∧
      KeepsBut (fun p =>
        match p with
        | .slot j => j.val == s.sp.val
        | _ => false) s u

/-- The six skips: PC + 4 when the condition holds, else PC + 2, exactly (from a PC that can be fetched at), and nothing
else changes, whatever word is skipped (R104, R123 to R126). -/
def Obligations.SkipsFollowTheSkipRule : Prop :=
  ∀ (s : State) (x y : Reg) (kk : Byte), s.pc.toNat ≤ 0xFFE →
    (∃ t, exec (.skipEqImm x kk) s = .next t ∧ KeepsAll s t ∧
      t.pc.toNat = s.pc.toNat + if s.reg x = kk then 4 else 2) ∧
    (∃ t, exec (.skipNeImm x kk) s = .next t ∧ KeepsAll s t ∧
      t.pc.toNat = s.pc.toNat + if s.reg x = kk then 2 else 4) ∧
    (∃ t, exec (.skipEqReg x y) s = .next t ∧ KeepsAll s t ∧
      t.pc.toNat = s.pc.toNat + if s.reg x = s.reg y then 4 else 2) ∧
    (∃ t, exec (.skipNeReg x y) s = .next t ∧ KeepsAll s t ∧
      t.pc.toNat = s.pc.toNat + if s.reg x = s.reg y then 2 else 4) ∧
    (∀ k : Fin 16, (s.reg x).toNat = k.val →
      (∃ t, exec (.skipKeyPressed x) s = .next t ∧ KeepsAll s t ∧
        t.pc.toNat = s.pc.toNat + if s.keyPressed k = true then 4 else 2) ∧
      (∃ t, exec (.skipKeyNotPressed x) s = .next t ∧ KeepsAll s t ∧
        t.pc.toNat = s.pc.toNat + if s.keyPressed k = true then 2 else 4))

/-- A key index above 15 faults with that index (R209; the spec's decision D14, log 18). -/
def Obligations.KeyIndexAboveFifteenFaults : Prop :=
  ∀ (s : State) (x : Reg), 15 < (s.reg x).toNat →
    exec (.skipKeyPressed x) s = .fault (.boundsKeypad (s.reg x)) ∧
      exec (.skipKeyNotPressed x) s = .fault (.boundsKeypad (s.reg x))

/-- JumpOffset goes to nnn + V0, exact and not reduced, and changes nothing else (R127; the spec's decision D9,
log 18). -/
def Obligations.JumpOffsetAddsV0Exactly : Prop :=
  ∀ (nnn : Addr) (s : State),
    ∃ t, exec (.jumpOffset nnn) s = .next t ∧ t.pc.toNat = nnn.toNat + (s.reg 0).toNat ∧ KeepsAll s t

/-! ### Register loads and the ALU (42_alu.md) -/

/-- SetImm, AddImm (modulo 256, no flag) and Assign write Vx and no other register, VF only when it is Vx
(R141, R142, R143). -/
def Obligations.LoadsAndImmediateAddWriteVx : Prop :=
  ∀ (s : State) (x y : Reg) (kk : Byte),
    (∃ t, exec (.setImm x kk) s = .next t ∧ t.pc = s.pc + 2 ∧ t.reg x = kk ∧ ∀ r, r ≠ x → t.reg r = s.reg r) ∧
    (∃ t, exec (.addImm x kk) s = .next t ∧ t.pc = s.pc + 2 ∧
      (t.reg x).toNat = ((s.reg x).toNat + kk.toNat) % 256 ∧ ∀ r, r ≠ x → t.reg r = s.reg r) ∧
    (∃ t, exec (.assign x y) s = .next t ∧ t.pc = s.pc + 2 ∧ t.reg x = s.reg y ∧ ∀ r, r ≠ x → t.reg r = s.reg r)

/-- Or, And and Xor combine Vx and Vy bit by bit into Vx and write no other register, VF included unless it is Vx;
Xor of a register with itself clears it, Or and And leave it (R144, R145, R146). That VF is left is the spec's own
reading of a source that is silent on it (93_implementation_defined.md section 1; log 27). -/
def Obligations.BitwiseOperationsWorkBitByBit : Prop :=
  ∀ (s : State) (x y : Reg),
    (∃ t, exec (.or x y) s = .next t ∧ t.pc = s.pc + 2 ∧ (∀ r, r ≠ x → t.reg r = s.reg r) ∧
      (∀ b, (t.reg x).getLsbD b = ((s.reg x).getLsbD b || (s.reg y).getLsbD b)) ∧
      (x = y → t.reg x = s.reg x)) ∧
    (∃ t, exec (.and x y) s = .next t ∧ t.pc = s.pc + 2 ∧ (∀ r, r ≠ x → t.reg r = s.reg r) ∧
      (∀ b, (t.reg x).getLsbD b = ((s.reg x).getLsbD b && (s.reg y).getLsbD b)) ∧
      (x = y → t.reg x = s.reg x)) ∧
    (∃ t, exec (.xor x y) s = .next t ∧ t.pc = s.pc + 2 ∧ (∀ r, r ≠ x → t.reg r = s.reg r) ∧
      (∀ b, (t.reg x).getLsbD b = ((s.reg x).getLsbD b ^^ (s.reg y).getLsbD b)) ∧
      (x = y → t.reg x = 0))

/-- Add: Vx is the sum modulo 256, VF 1 when the exact sum exceeds 255, else 0; with x = 15 VF holds the flag (R147,
R140; that order is the spec's decision D17, log 16). -/
def Obligations.AddWritesSumAndCarry : Prop :=
  ∀ (s : State) (x y : Reg),
    ∃ t, exec (.add x y) s = .next t ∧ t.pc = s.pc + 2 ∧
      (x ≠ VF → (t.reg x).toNat = ((s.reg x).toNat + (s.reg y).toNat) % 256) ∧
      (t.reg VF).toNat = (if 255 < (s.reg x).toNat + (s.reg y).toNat then 1 else 0) ∧
      ∀ r, r ≠ x → r ≠ VF → t.reg r = s.reg r

/-- Sub and ReverseSub: Vx is the difference modulo 256, VF 0 on a borrow, else 1; with x = 15 VF holds the flag (R148,
R150, R140; that order is the spec's decision D17, log 16). -/
def Obligations.SubtractionsWriteDifferenceAndNotBorrow : Prop :=
  ∀ (s : State) (x y : Reg),
    (∃ t, exec (.sub x y) s = .next t ∧ t.pc = s.pc + 2 ∧
      (x ≠ VF → ((t.reg x).toNat : Int) = ((s.reg x).toNat - (s.reg y).toNat : Int) % 256) ∧
      (t.reg VF).toNat = (if (s.reg x).toNat < (s.reg y).toNat then 0 else 1) ∧
      ∀ r, r ≠ x → r ≠ VF → t.reg r = s.reg r) ∧
    (∃ t, exec (.reverseSub x y) s = .next t ∧ t.pc = s.pc + 2 ∧
      (x ≠ VF → ((t.reg x).toNat : Int) = ((s.reg y).toNat - (s.reg x).toNat : Int) % 256) ∧
      (t.reg VF).toNat = (if (s.reg y).toNat < (s.reg x).toNat then 0 else 1) ∧
      ∀ r, r ≠ x → r ≠ VF → t.reg r = s.reg r)

/-- The shifts: the source, Vx or with SHIFT_USES_VY Vy, moved by one with a zero entering, into Vx; VF the bit shifted
out; with x = 15 VF holds the flag (R149, R151; that order is the spec's decision D17, log 16). -/
def Obligations.ShiftsMoveByOneAndKeepTheLostBit : Prop :=
  ∀ (s : State) (x y : Reg) (a : Nat), a = (if s.shiftUsesVy = true then s.reg y else s.reg x).toNat →
    (∃ t, exec (.shiftRight x y) s = .next t ∧ t.pc = s.pc + 2 ∧
      (x ≠ VF → (t.reg x).toNat = a / 2) ∧ (t.reg VF).toNat = a % 2 ∧
      ∀ r, r ≠ x → r ≠ VF → t.reg r = s.reg r) ∧
    (∃ t, exec (.shiftLeft x y) s = .next t ∧ t.pc = s.pc + 2 ∧
      (x ≠ VF → (t.reg x).toNat = 2 * a % 256) ∧ (t.reg VF).toNat = a / 128 ∧
      ∀ r, r ≠ x → r ≠ VF → t.reg r = s.reg r)

/-- RandomAnd draws exactly one free byte and writes it, masked by kk, into Vx alone: 0 when kk is 0, the byte itself
when kk is 0xFF (R152; the count of draws is the model's, log 4). -/
def Obligations.RandomAndDrawsOneFreeByte : Prop :=
  ∀ (s : State) (x : Reg) (kk : Byte),
    ∃ t, exec (.randomAnd x kk) s = .next t ∧ t.pc = s.pc + 2 ∧ t.draws = s.draws + 1 ∧
      (∀ b, (t.reg x).getLsbD b = ((Config.randByte s.draws).getLsbD b && kk.getLsbD b)) ∧
      (kk = 0x00 → t.reg x = 0x00) ∧ (kk = 0xFF → t.reg x = Config.randByte s.draws) ∧
      ∀ r, r ≠ x → t.reg r = s.reg r

/-- One register as source and destination is read once and written once: Xor clears it, Sub and ReverseSub clear it
with VF = 1, Add doubles it (R107). That VF is 1 also when the register is VF itself is the write order of the spec's
decision D17 (log 16). -/
def Obligations.SameRegisterIsReadOnce : Prop :=
  ∀ (s : State) (x : Reg),
    (∃ t, exec (.xor x x) s = .next t ∧ t.reg x = 0) ∧
    (∃ t, exec (.sub x x) s = .next t ∧ (x ≠ VF → t.reg x = 0) ∧ t.reg VF = 1) ∧
    (∃ t, exec (.reverseSub x x) s = .next t ∧ (x ≠ VF → t.reg x = 0) ∧ t.reg VF = 1) ∧
    (∃ t, exec (.add x x) s = .next t ∧ (x ≠ VF → (t.reg x).toNat = 2 * (s.reg x).toNat % 256))

/-! ### The index register and memory (43_index_memory.md) -/

/-- SetIndex, family A with nnn, gives I its address, SetIndexGlyph 0x50 + 5 * Vx with no mask; nothing else changes
(R171, R173; that no mask is applied is the spec's reading of the source's formula, 93_implementation_defined.md
section 1). -/
def Obligations.IndexIsSetAsGiven : Prop :=
  ∀ (s : State) (x : Reg) (nnn : Addr),
    decode (wordAddr 0xA nnn) = .ok (.setIndex nnn) ∧
    (∃ t, exec (.setIndex nnn) s = .next t ∧ t.pc = s.pc + 2 ∧ t.i.toNat = nnn.toNat ∧
      KeepsBut (fun p => p == .index) s t) ∧
    (∃ t, exec (.setIndexGlyph x) s = .next t ∧ t.pc = s.pc + 2 ∧ t.i.toNat = 0x50 + 5 * (s.reg x).toNat ∧
      KeepsBut (fun p => p == .index) s t)

/-- AddIndex adds Vx to I modulo 2^16 with no flag and no fault (R172; the reduction is the spec's decision D19,
log 19). -/
def Obligations.AddIndexWrapsAtSixteenBits : Prop :=
  ∀ (s : State) (x : Reg),
    ∃ t, exec (.addIndex x) s = .next t ∧ t.pc = s.pc + 2 ∧
      t.i.toNat = (s.i.toNat + (s.reg x).toNat) % 65536 ∧ KeepsBut (fun p => p == .index) s t

/-- BcdStore: hundreds, tens and ones of Vx at I, I+1, I+2, each at most 9 and together Vx (R174; I unchanged by the
spec's decision D20, the range by D10, logs 17 and 18). -/
def Obligations.BcdStoreWritesThreeDigits : Prop :=
  ∀ (s : State) (x : Reg), s.i.toNat + 2 ≤ 0xFFF →
    ∃ t, exec (.bcdStore x) s = .next t ∧ t.pc = s.pc + 2 ∧ t.i = s.i ∧
      (t.mem.read s.i.toNat).toNat = (s.reg x).toNat / 100 ∧
      (t.mem.read (s.i.toNat + 1)).toNat = (s.reg x).toNat / 10 % 10 ∧
      (t.mem.read (s.i.toNat + 2)).toNat = (s.reg x).toNat % 10 ∧
      (t.mem.read s.i.toNat).toNat ≤ 9 ∧
      100 * (t.mem.read s.i.toNat).toNat + 10 * (t.mem.read (s.i.toNat + 1)).toNat
        + (t.mem.read (s.i.toNat + 2)).toNat = (s.reg x).toNat

/-- RegisterDump copies V0..Vx to memory from I on (R175; I unchanged by the spec's decision D20, the range by D10,
logs 17 and 18). -/
def Obligations.RegisterDumpCopiesRegistersToMemory : Prop :=
  ∀ (s : State) (x : Reg), s.i.toNat + x.val ≤ 0xFFF →
    ∃ t, exec (.registerDump x) s = .next t ∧ t.pc = s.pc + 2 ∧ t.i = s.i ∧
      ∀ k : Reg, k ≤ x → t.mem.read (s.i.toNat + k.val) = s.reg k

/-- RegisterLoad copies memory from I on to V0..Vx and leaves the other registers (R176; I unchanged by the spec's
decision D20, the range by D10, logs 17 and 18). -/
def Obligations.RegisterLoadCopiesMemoryToRegisters : Prop :=
  ∀ (s : State) (x : Reg), s.i.toNat + x.val ≤ 0xFFF →
    ∃ t, exec (.registerLoad x) s = .next t ∧ t.pc = s.pc + 2 ∧ t.i = s.i ∧
      ∀ r : Reg, t.reg r = if r ≤ x then s.mem.read (s.i.toNat + r.val) else s.reg r

/-- Dump then load: whatever the registers have become in between, V0..Vx hold again what was dumped; out of range both
fault and nothing is dumped (R177; the spec's decisions D10 and D20, logs 17 and 18). -/
def Obligations.DumpThenLoadRestoresRegisters : Prop :=
  ∀ (s : State) (x : Reg) (others : Vector Byte 16),
    (s.i.toNat + x.val ≤ 0xFFF →
      ∃ t u, exec (.registerDump x) s = .next t ∧ exec (.registerLoad x) { t with v := others } = .next u ∧
        ∀ r : Reg, r ≤ x → u.reg r = s.reg r) ∧
    (0xFFF < s.i.toNat + x.val →
      exec (.registerDump x) s = .fault (.boundsIndex (max s.i.toNat 0x1000)) ∧
        exec (.registerLoad x) { s with v := others } = .fault (.boundsIndex (max s.i.toNat 0x1000)))

/-- The address a BoundsFault(Index) reports is the first, in access order, that is above 0xFFF (R170; the spec's
decision D10, log 18). -/
def Obligations.IndexFaultReportsTheFirstBadAddress : Prop :=
  ∀ (i : Instr) (s : State) (a : Nat), exec i s = .fault (.boundsIndex a) →
    ∃ k, k < bytesTouched i ∧ a = s.i.toNat + k ∧ 0xFFF < a ∧ ∀ j, j < k → s.i.toNat + j ≤ 0xFFF

/-! ### Timers (44_timers.md) -/

/-- GetDelay, SetDelay and SetSound move one byte between Vx and the timer named, and change nothing else (R190, R191,
R192). -/
def Obligations.TimerInstructionsMoveOneByte : Prop :=
  ∀ (s : State) (x : Reg),
    (∃ t, exec (.getDelay x) s = .next t ∧ t.pc = s.pc + 2 ∧ t.reg x = s.dt ∧
      KeepsBut (fun p => p == .reg x) s t) ∧
    (∃ t, exec (.setDelay x) s = .next t ∧ t.pc = s.pc + 2 ∧ t.dt = s.reg x ∧
      KeepsBut (fun p => p == .delay) s t) ∧
    (∃ t, exec (.setSound x) s = .next t ∧ t.pc = s.pc + 2 ∧ t.st = s.reg x ∧
      KeepsBut (fun p => p == .sound) s t)

/-- tick(): each timer above 0 counts down by 1, one at 0 stays, each on its own; nothing else changes, PC and the fault
record included; so from 0 and from 1 a tick leaves 0 (R196, R199). It holds in every state, suspended or faulted. -/
def Obligations.TickCountsEachTimerDown : Prop :=
  ∀ s : State,
    s.tick.dt.toNat = (if 0 < s.dt.toNat then s.dt.toNat - 1 else 0) ∧
      s.tick.st.toNat = (if 0 < s.st.toNat then s.st.toNat - 1 else 0) ∧
      s.tick.pc = s.pc ∧ KeepsBut (fun p => p == .delay || p == .sound) s s.tick ∧
      (s.dt = 0 ∨ s.dt = 1 → s.tick.dt = 0) ∧ (s.st = 0 ∨ s.st = 1 → s.tick.st = 0)

/-! ### Framebuffer and keypad (45_display_keypad.md) -/

/-- ClearDisplay, exactly the word 0x00E0, turns every pixel off and changes nothing else; on a clear framebuffer only PC
changes (R200). -/
def Obligations.ClearDisplayTurnsEveryPixelOff : Prop :=
  (∀ w : Word, decode w = .ok .clearDisplay ↔ w = 0x00E0) ∧
  ∀ s : State,
    ∃ t, exec .clearDisplay s = .next t ∧ t.pc = s.pc + 2 ∧ (∀ qx qy, t.fb.get qx qy = false) ∧
      (∀ p, (∀ qx qy, p ≠ .pixel qx qy) → Part.same p s t) ∧ ((∀ qx qy, s.fb.get qx qy = false) → KeepsAll s t)

/-- Draw is the whole sprite XORed into the framebuffer at once, wrapping at both edges, at the coordinates Vx and Vy
hold before VF is written; VF is 1 exactly when a set sprite bit met a pixel that was on, else 0 (R204, R205; the
coordinates by the spec's decision D16, the range by D10, logs 16 and 18). -/
def Obligations.DrawXorsTheWholeSprite : Prop :=
  ∀ (s : State) (x y : Reg) (n : Fin 16), n.val = 0 ∨ s.i.toNat + n.val ≤ 0x1000 →
    ∃ t, exec (.draw x y n) s = .next t ∧ t.pc = s.pc + 2 ∧
      (∀ qx qy, t.fb.get qx qy = (s.fb.get qx qy ^^ spriteBit s (s.reg x) (s.reg y) n.val qx qy)) ∧
      (t.reg VF = 1 ↔ ∃ qx qy, spriteBit s (s.reg x) (s.reg y) n.val qx qy = true ∧ s.fb.get qx qy = true) ∧
      (t.reg VF = 0 ∨ t.reg VF = 1)

/-- A sprite drawn a second time at the same place restores every pixel (R205); it reports a collision exactly when some
pixel under a set bit was off before the first draw, so always when the sprite has a set bit and was drawn on a clear
framebuffer. (R205 says so of any framebuffer; R204's own steps give 0 where every such pixel was on: log 32.) The second
draw may take its coordinates from any registers that hold the same values. That it reads the same sprite rests on Draw
leaving I unchanged (the spec's decision D20, log 17), and with VF as a coordinate on the coordinates being read before
VF is written (decision D16, log 16); the range is decision D10 (log 18). -/
def Obligations.DrawingTwiceRestoresTheFramebuffer : Prop :=
  ∀ (s t : State) (x y x' y' : Reg) (n : Fin 16), exec (.draw x y n) s = .next t →
    t.reg x' = s.reg x → t.reg y' = s.reg y →
    ∃ u, exec (.draw x' y' n) t = .next u ∧ (∀ qx qy, u.fb.get qx qy = s.fb.get qx qy) ∧
      (u.reg VF = 1 ↔ ∃ qx qy, spriteBit s (s.reg x) (s.reg y) n.val qx qy = true ∧ s.fb.get qx qy = false) ∧
      ((∀ qx qy, s.fb.get qx qy = false) → ∀ row col, row < n.val → col < 8 →
        (s.mem.read (s.i.toNat + row)).getLsbD col = true → u.reg VF = 1)

/-- WaitKey stores the lowest pressed key in Vx alone and advances; with no key pressed the outcome is Suspended, which
the model renders as the next state equal to the state before, PC not advanced (R213, R214; that rendering is log 2;
level reading in the same step is the spec's decision D15, log 15). -/
def Obligations.WaitKeyStoresTheLowestPressedKey : Prop :=
  ∀ (s : State) (x : Reg),
    (∀ k : Fin 16, s.keyPressed k = true → (∀ j, j < k → s.keyPressed j = false) →
      ∃ t, exec (.waitKey x) s = .next t ∧ t.pc = s.pc + 2 ∧ (t.reg x).toNat = k.val ∧
        ∀ r, r ≠ x → t.reg r = s.reg r) ∧
    ((∀ k, s.keyPressed k = false) → exec (.waitKey x) s = .next s)

/-! ### Frames: what an instruction leaves unchanged (10_state.md R22 to R31) -/

/-- SetImm, AddImm, Assign, Or, And, Xor, Add, Sub, ShiftRight, ReverseSub, ShiftLeft, RandomAnd: every part but those
mayChange names (Vx, VF as a flag, the count of draws) reads as before, every byte of memory included. That Or, And and
Xor leave VF is the spec's own reading (93_implementation_defined.md section 1; log 27); the count of draws is the
model's (log 4). -/
def Obligations.AluInstructionsChangeOnlyTheirRegisters : Prop :=
  ∀ (i : Instr) (s t : State), familyOf i = .alu → exec i s = .next t → KeepsBut (mayChange i s) s t

/-- Return, Jump, Call, JumpOffset and the six skips: every part but SP and the slot a Call pushes reads as before, every
register, timer, pixel and byte of memory included. -/
def Obligations.ControlInstructionsChangeOnlyTheStack : Prop :=
  ∀ (i : Instr) (s t : State), familyOf i = .control → exec i s = .next t → KeepsBut (mayChange i s) s t

/-- SetIndex, AddIndex, SetIndexGlyph, GetDelay, SetDelay, SetSound, WaitKey, RegisterLoad: every part but the one
written (I, DT, ST, Vx, or V0..Vx) reads as before, every byte of memory included. That RegisterLoad leaves I unchanged
is the spec's decision D20 (log 17). -/
def Obligations.TransferInstructionsChangeOnlyTheirTarget : Prop :=
  ∀ (i : Instr) (s t : State), familyOf i = .transfer → exec i s = .next t → KeepsBut (mayChange i s) s t

/-- BcdStore and RegisterDump: every part but the bytes stored, 3 from I or x + 1 from I, reads as before, every other
byte of memory, every register and I included. That I is unchanged is the spec's decision D20 (log 17). -/
def Obligations.StoresChangeOnlyTheirBytes : Prop :=
  ∀ (i : Instr) (s t : State), familyOf i = .store → exec i s = .next t → KeepsBut (mayChange i s) s t

/-- ClearDisplay and Draw: every part but the pixels (for Draw, those under a set bit of the sprite) and, for Draw, VF
reads as before, every byte of memory included. That Draw leaves I unchanged is the spec's decision D20 (log 17); that the
sprite lies at the coordinates Vx and Vy hold before VF is written, where x or y is 15, is decision D16 (log 16). -/
def Obligations.DisplayInstructionsChangeOnlyPixelsAndFlag : Prop :=
  ∀ (i : Instr) (s t : State), familyOf i = .display → exec i s = .next t → KeepsBut (mayChange i s) s t

/-! ### Whole-machine rules -/

/-- An instruction reads no general register but those R22 lists: changing any other register r changes no outcome, no
fault, not PC and no other part of the next state; and where the instruction writes r it writes the same value, while
where it does not each next state keeps the value r had. (A WaitKey that finds no key writes nothing: log 2.) -/
def Obligations.RegistersReadAreTheListedOnes : Prop :=
  ∀ (i : Instr) (s : State) (r : Reg) (b : Byte), readsReg i s.shiftUsesVy r = false →
    Agree (fun t u => u.pc = t.pc ∧ KeepsBut (fun p => p == .reg r) t u ∧
        (writesNow i s r = true → u.reg r = t.reg r) ∧
        (writesNow i s r = false → t.reg r = s.reg r ∧ u.reg r = b))
      (exec i s) (exec i (s.setReg r b))

/-- No instruction reads ST (R27), and none can observe a stack slot at or above SP (R33). -/
def Obligations.SoundTimerAndVacatedSlotsAreNeverRead : Prop :=
  ∀ (i : Instr) (s : State),
    (∀ b : Byte,
      Agree (fun t u => u.pc = t.pc ∧ KeepsBut (fun p => p == .sound) t u) (exec i s) (exec i (s.setSt b))) ∧
    (∀ (j : Fin 16) (w : Word), s.sp.val ≤ j.val →
      Agree (fun t u => u.pc = t.pc ∧ KeepsBut (fun p => p == .slot j) t u)
        (exec i s) (exec i { s with stack := s.stack.set j w }))

/-- Only SkipKeyPressed, SkipKeyNotPressed and WaitKey read KEY (R31), and only Draw reads FB (R30, R201, R108). -/
def Obligations.KeypadAndFramebufferAreReadOnlyByTheirInstructions : Prop :=
  ∀ (i : Instr) (s : State) (keys : Keypad) (fb : Framebuffer),
    ((∀ x, i ≠ .skipKeyPressed x ∧ i ≠ .skipKeyNotPressed x ∧ i ≠ .waitKey x) →
      Agree (fun t u => u = t.setKeys keys) (exec i s) (exec i (s.setKeys keys))) ∧
    ((∀ x y n, i ≠ .draw x y n) →
      Agree (fun t u => u.setFb t.fb = t ∧ (i ≠ .clearDisplay → u.fb = fb)) (exec i s) (exec i (s.setFb fb)))

/-! ### Reset, loading, ends and invariants (70_reset_and_hazards.md) -/

/-- After reset: every register, timer and stack slot 0, the stack empty, PC 0x200, every pixel off, no fault recorded,
memory the 80 bytes of R53 at 0x050..0x09F (written out here glyph by glyph) and 0 at every other address below 0x1000
(R34, R250). The values are the spec's own decisions D3, D4, D5, D6 and D24 (logs 6 to 10). -/
def Obligations.ResetLeavesTheStatedValues : Prop :=
  (∀ r, State.reset.reg r = 0) ∧ State.reset.i = 0 ∧ State.reset.pc = 0x200 ∧ State.reset.sp.val = 0 ∧
    (∀ j : Fin 16, State.reset.stack[j] = 0) ∧ State.reset.dt = 0 ∧ State.reset.st = 0 ∧
    (∀ qx qy, State.reset.fb.get qx qy = false) ∧ State.reset.fault = none ∧
    (∀ a, a < 0x50 ∨ (0xA0 ≤ a ∧ a < 0x1000) → State.reset.mem.read a = 0) ∧
    (List.range 80).map (fun k => State.reset.mem.read (0x50 + k)) =
      [0xF0, 0x90, 0x90, 0x90, 0xF0] ++ [0x20, 0x60, 0x20, 0x20, 0x70]
        ++ [0xF0, 0x10, 0xF0, 0x80, 0xF0] ++ [0xF0, 0x10, 0xF0, 0x10, 0xF0]
        ++ [0x90, 0x90, 0xF0, 0x10, 0x10] ++ [0xF0, 0x80, 0xF0, 0x10, 0xF0]
        ++ [0xF0, 0x80, 0xF0, 0x90, 0xF0] ++ [0xF0, 0x10, 0x20, 0x40, 0x40]
        ++ [0xF0, 0x90, 0xF0, 0x90, 0xF0] ++ [0xF0, 0x90, 0xF0, 0x10, 0xF0]
        ++ [0xF0, 0x90, 0xF0, 0x90, 0x90] ++ [0xE0, 0x90, 0xE0, 0x90, 0xE0]
        ++ [0xF0, 0x80, 0x80, 0x80, 0xF0] ++ [0xE0, 0x90, 0x90, 0x90, 0xE0]
        ++ [0xF0, 0x80, 0xF0, 0x80, 0xF0] ++ [0xF0, 0x80, 0xF0, 0x80, 0x80]

/-- load_program puts byte k of the image at 0x200 + k and changes nothing else; an image longer than 3584 bytes, or one
that cannot be read, is a ResourceError (R252, R225; the size limit is the spec's decision D25, log 23). -/
def Obligations.LoadProgramPlacesTheImage : Prop :=
  ∀ (s : State) (image : List Byte),
    (image.length ≤ 3584 →
      ∃ t, s.loadProgram (some image) = .next t ∧ t.pc = s.pc ∧
        (∀ k, k < image.length → t.mem.read (0x200 + k) = image.getD k 0) ∧
        KeepsBut (fun p =>
          match p with
          | .byte a => decide (0x200 ≤ a ∧ a < 0x200 + image.length)
          | _ => false) s t) ∧
    (3584 < image.length → s.loadProgram (some image) = .fault (.resourceError .imageTooLarge)) ∧
    s.loadProgram none = .fault (.resourceError .unreadable)

/-- Every step keeps the invariant: memory in canonical form, PC at most 0x10FE (R24, R105), every stack slot at most
0xFFE (R122). -/
def Obligations.StepKeepsTheInvariant : Prop :=
  ∀ s t : State, s.inv = true → step s = .next t → t.inv = true

/-- The state after reset meets the invariant. -/
def Obligations.ResetMeetsTheInvariant : Prop :=
  State.reset.inv = true

/-- Whatever the driver does, in any order and number (steps, ticks, keypad snapshots, loads of any image), the
invariant holds throughout (R61, R197). -/
def Obligations.EveryDriverRunKeepsTheInvariant : Prop :=
  ∀ (s : State) (cs : List HostCall), s.inv = true → (s.calls cs).inv = true

/-- At the end of a run the machine loops: the step runs and leaves the state as it was, so the run stays ended (R255;
the definition of the end is the spec's decision D28, log 30). -/
def Obligations.EndedRunLoopsInPlace : Prop :=
  ∀ s : State, s.isEnded = true →
    cycle s = .next s ∧ s.callStep = (.ok, s) ∧ s.tick.isEnded = true
end

