-- ==== Sys2Proof/Laws/Decode.lean ====
section
/-! SUPPORT. Laws/Decode.lean: the fields of each format's word (30_encoding.md R71, R72), for proofs about decode and
encode. -/

namespace Sys2Proof.Laws

/-! ### The ADDR format -/

theorem opFamily_wordAddr (f : BitVec 4) (a : Addr) : opFamily (wordAddr f a) = f := by
  ext i hi
  rw [opFamily, BitVec.getElem_extractLsb']
  refine (BitVec.getLsbD_append (x := f) (y := a)).trans ?_
  rw [if_neg (by omega), show 12 + i - 12 = i by omega, BitVec.getLsbD_eq_getElem]

theorem opNNN_wordAddr (f : BitVec 4) (a : Addr) : opNNN (wordAddr f a) = a := by
  ext i hi
  rw [opNNN, BitVec.getElem_extractLsb']
  refine (BitVec.getLsbD_append (x := f) (y := a)).trans ?_
  rw [if_pos (by omega), Nat.zero_add, BitVec.getLsbD_eq_getElem]

/-! ### The REG_IMM and REG_SEL formats -/

theorem opFamily_wordRegImm (f : BitVec 4) (x : Reg) (kk : Byte) : opFamily (wordRegImm f x kk) = f := by
  ext i hi
  rw [opFamily, BitVec.getElem_extractLsb']
  refine (BitVec.getLsbD_append (x := f ++ (BitVec.ofFin x : BitVec 4)) (y := kk)).trans ?_
  rw [if_neg (by omega)]
  refine (BitVec.getLsbD_append (x := f) (y := (BitVec.ofFin x : BitVec 4))).trans ?_
  rw [if_neg (by omega), show 12 + i - 8 - 4 = i by omega, BitVec.getLsbD_eq_getElem]

theorem opX_wordRegImm (f : BitVec 4) (x : Reg) (kk : Byte) : opX (wordRegImm f x kk) = x := by
  refine congrArg BitVec.toFin (show (wordRegImm f x kk).extractLsb' 8 4 = (BitVec.ofFin x : BitVec 4) from ?_)
  ext i hi
  rw [BitVec.getElem_extractLsb']
  refine (BitVec.getLsbD_append (x := f ++ (BitVec.ofFin x : BitVec 4)) (y := kk)).trans ?_
  rw [if_neg (by omega)]
  refine (BitVec.getLsbD_append (x := f) (y := (BitVec.ofFin x : BitVec 4))).trans ?_
  rw [if_pos (by omega), show 8 + i - 8 = i by omega, BitVec.getLsbD_eq_getElem]

theorem opKK_wordRegImm (f : BitVec 4) (x : Reg) (kk : Byte) : opKK (wordRegImm f x kk) = kk := by
  ext i hi
  rw [opKK, BitVec.getElem_extractLsb']
  refine (BitVec.getLsbD_append (x := f ++ (BitVec.ofFin x : BitVec 4)) (y := kk)).trans ?_
  rw [if_pos (by omega), Nat.zero_add, BitVec.getLsbD_eq_getElem]

/-! ### The REG_REG, ALU and DRAW formats -/

theorem opFamily_wordRegReg (f : BitVec 4) (x y : Reg) (n : BitVec 4) : opFamily (wordRegReg f x y n) = f := by
  ext i hi
  rw [opFamily, BitVec.getElem_extractLsb']
  refine (BitVec.getLsbD_append (x := f ++ (BitVec.ofFin x : BitVec 4) ++ (BitVec.ofFin y : BitVec 4)) (y := n)).trans ?_
  rw [if_neg (by omega)]
  refine (BitVec.getLsbD_append (x := f ++ (BitVec.ofFin x : BitVec 4)) (y := (BitVec.ofFin y : BitVec 4))).trans ?_
  rw [if_neg (by omega)]
  refine (BitVec.getLsbD_append (x := f) (y := (BitVec.ofFin x : BitVec 4))).trans ?_
  rw [if_neg (by omega), show 12 + i - 4 - 4 - 4 = i by omega, BitVec.getLsbD_eq_getElem]

theorem opX_wordRegReg (f : BitVec 4) (x y : Reg) (n : BitVec 4) : opX (wordRegReg f x y n) = x := by
  refine congrArg BitVec.toFin (show (wordRegReg f x y n).extractLsb' 8 4 = (BitVec.ofFin x : BitVec 4) from ?_)
  ext i hi
  rw [BitVec.getElem_extractLsb']
  refine (BitVec.getLsbD_append (x := f ++ (BitVec.ofFin x : BitVec 4) ++ (BitVec.ofFin y : BitVec 4)) (y := n)).trans ?_
  rw [if_neg (by omega)]
  refine (BitVec.getLsbD_append (x := f ++ (BitVec.ofFin x : BitVec 4)) (y := (BitVec.ofFin y : BitVec 4))).trans ?_
  rw [if_neg (by omega)]
  refine (BitVec.getLsbD_append (x := f) (y := (BitVec.ofFin x : BitVec 4))).trans ?_
  rw [if_pos (by omega), show 8 + i - 4 - 4 = i by omega, BitVec.getLsbD_eq_getElem]

theorem opY_wordRegReg (f : BitVec 4) (x y : Reg) (n : BitVec 4) : opY (wordRegReg f x y n) = y := by
  refine congrArg BitVec.toFin (show (wordRegReg f x y n).extractLsb' 4 4 = (BitVec.ofFin y : BitVec 4) from ?_)
  ext i hi
  rw [BitVec.getElem_extractLsb']
  refine (BitVec.getLsbD_append (x := f ++ (BitVec.ofFin x : BitVec 4) ++ (BitVec.ofFin y : BitVec 4)) (y := n)).trans ?_
  rw [if_neg (by omega)]
  refine (BitVec.getLsbD_append (x := f ++ (BitVec.ofFin x : BitVec 4)) (y := (BitVec.ofFin y : BitVec 4))).trans ?_
  rw [if_pos (by omega), show 4 + i - 4 = i by omega, BitVec.getLsbD_eq_getElem]

theorem opN_wordRegReg (f : BitVec 4) (x y : Reg) (n : BitVec 4) : opN (wordRegReg f x y n) = n := by
  ext i hi
  rw [opN, BitVec.getElem_extractLsb']
  refine (BitVec.getLsbD_append (x := f ++ (BitVec.ofFin x : BitVec 4) ++ (BitVec.ofFin y : BitVec 4)) (y := n)).trans ?_
  rw [if_pos (by omega), Nat.zero_add, BitVec.getLsbD_eq_getElem]

/-! ### A word is its fields -/

/-- A word written back from its family and address field. -/
theorem wordAddr_fields (w : Word) : wordAddr (opFamily w) (opNNN w) = w := by
  ext i hi
  refine (BitVec.getElem_append (x := opFamily w) (y := opNNN w) hi).trans ?_
  simp only [opFamily, opNNN, BitVec.getElem_extractLsb']
  split
  · rw [Nat.zero_add, BitVec.getLsbD_eq_getElem hi]
  · rw [show 12 + (i - 12) = i by omega, BitVec.getLsbD_eq_getElem hi]

/-- A word written back from its family, x and kk. -/
theorem wordRegImm_fields (w : Word) : wordRegImm (opFamily w) (opX w) (opKK w) = w := by
  ext i hi
  refine (BitVec.getElem_append (x := opFamily w ++ (BitVec.ofFin (opX w) : BitVec 4)) (y := opKK w) hi).trans ?_
  split
  · rw [opKK, BitVec.getElem_extractLsb', Nat.zero_add, BitVec.getLsbD_eq_getElem hi]
  · refine (BitVec.getElem_append (x := opFamily w) (y := (BitVec.ofFin (opX w) : BitVec 4)) _).trans ?_
    simp only [opFamily, opX, BitVec.ofFin_toFin, BitVec.getElem_extractLsb']
    split
    · rw [show 8 + (i - 8) = i by omega, BitVec.getLsbD_eq_getElem hi]
    · rw [show 12 + (i - 8 - 4) = i by omega, BitVec.getLsbD_eq_getElem hi]

/-- A word written back from its family, x, y and n. -/
theorem wordRegReg_fields (w : Word) : wordRegReg (opFamily w) (opX w) (opY w) (opN w) = w := by
  ext i hi
  refine (BitVec.getElem_append (x := opFamily w ++ (BitVec.ofFin (opX w) : BitVec 4) ++ (BitVec.ofFin (opY w) : BitVec 4))
    (y := opN w) hi).trans ?_
  split
  · rw [opN, BitVec.getElem_extractLsb', Nat.zero_add, BitVec.getLsbD_eq_getElem hi]
  · refine (BitVec.getElem_append (x := opFamily w ++ (BitVec.ofFin (opX w) : BitVec 4)) (y := (BitVec.ofFin (opY w) : BitVec 4)) _).trans ?_
    split
    · simp only [opY, BitVec.ofFin_toFin, BitVec.getElem_extractLsb']
      rw [show 4 + (i - 4) = i by omega, BitVec.getLsbD_eq_getElem hi]
    · refine (BitVec.getElem_append (x := opFamily w) (y := (BitVec.ofFin (opX w) : BitVec 4)) _).trans ?_
      simp only [opFamily, opX, BitVec.ofFin_toFin, BitVec.getElem_extractLsb']
      split
      · rw [show 8 + (i - 4 - 4) = i by omega, BitVec.getLsbD_eq_getElem hi]
      · rw [show 12 + (i - 4 - 4 - 4) = i by omega, BitVec.getLsbD_eq_getElem hi]

end Sys2Proof.Laws
end

