-- ==== Sys2Proof/Laws/State.lean ====
section
/-! SUPPORT. Laws/State.lean: one lemma per field per update of the state, each true by unfolding once, so that no proof
unfolds a record update. -/

namespace Sys2Proof.Machine

variable (s : State)

/-! ### State.setReg -/

@[simp] theorem State.setReg_i (r : Reg) (b : Byte) : (s.setReg r b).i = s.i := rfl
@[simp] theorem State.setReg_pc (r : Reg) (b : Byte) : (s.setReg r b).pc = s.pc := rfl
@[simp] theorem State.setReg_sp (r : Reg) (b : Byte) : (s.setReg r b).sp = s.sp := rfl
@[simp] theorem State.setReg_stack (r : Reg) (b : Byte) : (s.setReg r b).stack = s.stack := rfl
@[simp] theorem State.setReg_dt (r : Reg) (b : Byte) : (s.setReg r b).dt = s.dt := rfl
@[simp] theorem State.setReg_st (r : Reg) (b : Byte) : (s.setReg r b).st = s.st := rfl
@[simp] theorem State.setReg_mem (r : Reg) (b : Byte) : (s.setReg r b).mem = s.mem := rfl
@[simp] theorem State.setReg_fb (r : Reg) (b : Byte) : (s.setReg r b).fb = s.fb := rfl
@[simp] theorem State.setReg_key (r : Reg) (b : Byte) : (s.setReg r b).key = s.key := rfl
@[simp] theorem State.setReg_fault (r : Reg) (b : Byte) : (s.setReg r b).fault = s.fault := rfl
@[simp] theorem State.setReg_shiftUsesVy (r : Reg) (b : Byte) : (s.setReg r b).shiftUsesVy = s.shiftUsesVy := rfl
@[simp] theorem State.setReg_draws (r : Reg) (b : Byte) : (s.setReg r b).draws = s.draws := rfl
@[simp] theorem State.setReg_schedule (r : Reg) (b : Byte) : (s.setReg r b).schedule = s.schedule := rfl

/-- A register read after a register write. -/
@[simp] theorem State.setReg_reg (r : Reg) (b : Byte) (q : Reg) :
    (s.setReg r b).reg q = if q = r then b else s.reg q := by
  by_cases h : q = r
  · subst h
    simp [State.reg, State.setReg]
  · have hv : r.val ≠ q.val := fun e => h (Fin.ext e.symm)
    simp [State.reg, State.setReg, h, Vector.getElem_set_ne _ _ hv]

/-! ### State.setI -/

@[simp] theorem State.setI_v (w : Word) : (s.setI w).v = s.v := rfl
@[simp] theorem State.setI_i (w : Word) : (s.setI w).i = w := rfl
@[simp] theorem State.setI_pc (w : Word) : (s.setI w).pc = s.pc := rfl
@[simp] theorem State.setI_sp (w : Word) : (s.setI w).sp = s.sp := rfl
@[simp] theorem State.setI_stack (w : Word) : (s.setI w).stack = s.stack := rfl
@[simp] theorem State.setI_dt (w : Word) : (s.setI w).dt = s.dt := rfl
@[simp] theorem State.setI_st (w : Word) : (s.setI w).st = s.st := rfl
@[simp] theorem State.setI_mem (w : Word) : (s.setI w).mem = s.mem := rfl
@[simp] theorem State.setI_fb (w : Word) : (s.setI w).fb = s.fb := rfl
@[simp] theorem State.setI_key (w : Word) : (s.setI w).key = s.key := rfl
@[simp] theorem State.setI_fault (w : Word) : (s.setI w).fault = s.fault := rfl
@[simp] theorem State.setI_shiftUsesVy (w : Word) : (s.setI w).shiftUsesVy = s.shiftUsesVy := rfl
@[simp] theorem State.setI_draws (w : Word) : (s.setI w).draws = s.draws := rfl
@[simp] theorem State.setI_schedule (w : Word) : (s.setI w).schedule = s.schedule := rfl
@[simp] theorem State.setI_reg (w : Word) (q : Reg) : (s.setI w).reg q = s.reg q := rfl

/-! ### State.setPc -/

@[simp] theorem State.setPc_v (w : Word) : (s.setPc w).v = s.v := rfl
@[simp] theorem State.setPc_i (w : Word) : (s.setPc w).i = s.i := rfl
@[simp] theorem State.setPc_pc (w : Word) : (s.setPc w).pc = w := rfl
@[simp] theorem State.setPc_sp (w : Word) : (s.setPc w).sp = s.sp := rfl
@[simp] theorem State.setPc_stack (w : Word) : (s.setPc w).stack = s.stack := rfl
@[simp] theorem State.setPc_dt (w : Word) : (s.setPc w).dt = s.dt := rfl
@[simp] theorem State.setPc_st (w : Word) : (s.setPc w).st = s.st := rfl
@[simp] theorem State.setPc_mem (w : Word) : (s.setPc w).mem = s.mem := rfl
@[simp] theorem State.setPc_fb (w : Word) : (s.setPc w).fb = s.fb := rfl
@[simp] theorem State.setPc_key (w : Word) : (s.setPc w).key = s.key := rfl
@[simp] theorem State.setPc_fault (w : Word) : (s.setPc w).fault = s.fault := rfl
@[simp] theorem State.setPc_shiftUsesVy (w : Word) : (s.setPc w).shiftUsesVy = s.shiftUsesVy := rfl
@[simp] theorem State.setPc_draws (w : Word) : (s.setPc w).draws = s.draws := rfl
@[simp] theorem State.setPc_schedule (w : Word) : (s.setPc w).schedule = s.schedule := rfl
@[simp] theorem State.setPc_reg (w : Word) (q : Reg) : (s.setPc w).reg q = s.reg q := rfl

/-! ### State.setDt -/

@[simp] theorem State.setDt_v (b : Byte) : (s.setDt b).v = s.v := rfl
@[simp] theorem State.setDt_i (b : Byte) : (s.setDt b).i = s.i := rfl
@[simp] theorem State.setDt_pc (b : Byte) : (s.setDt b).pc = s.pc := rfl
@[simp] theorem State.setDt_sp (b : Byte) : (s.setDt b).sp = s.sp := rfl
@[simp] theorem State.setDt_stack (b : Byte) : (s.setDt b).stack = s.stack := rfl
@[simp] theorem State.setDt_dt (b : Byte) : (s.setDt b).dt = b := rfl
@[simp] theorem State.setDt_st (b : Byte) : (s.setDt b).st = s.st := rfl
@[simp] theorem State.setDt_mem (b : Byte) : (s.setDt b).mem = s.mem := rfl
@[simp] theorem State.setDt_fb (b : Byte) : (s.setDt b).fb = s.fb := rfl
@[simp] theorem State.setDt_key (b : Byte) : (s.setDt b).key = s.key := rfl
@[simp] theorem State.setDt_fault (b : Byte) : (s.setDt b).fault = s.fault := rfl
@[simp] theorem State.setDt_shiftUsesVy (b : Byte) : (s.setDt b).shiftUsesVy = s.shiftUsesVy := rfl
@[simp] theorem State.setDt_draws (b : Byte) : (s.setDt b).draws = s.draws := rfl
@[simp] theorem State.setDt_schedule (b : Byte) : (s.setDt b).schedule = s.schedule := rfl
@[simp] theorem State.setDt_reg (b : Byte) (q : Reg) : (s.setDt b).reg q = s.reg q := rfl

/-! ### State.setSt -/

@[simp] theorem State.setSt_v (b : Byte) : (s.setSt b).v = s.v := rfl
@[simp] theorem State.setSt_i (b : Byte) : (s.setSt b).i = s.i := rfl
@[simp] theorem State.setSt_pc (b : Byte) : (s.setSt b).pc = s.pc := rfl
@[simp] theorem State.setSt_sp (b : Byte) : (s.setSt b).sp = s.sp := rfl
@[simp] theorem State.setSt_stack (b : Byte) : (s.setSt b).stack = s.stack := rfl
@[simp] theorem State.setSt_dt (b : Byte) : (s.setSt b).dt = s.dt := rfl
@[simp] theorem State.setSt_st (b : Byte) : (s.setSt b).st = b := rfl
@[simp] theorem State.setSt_mem (b : Byte) : (s.setSt b).mem = s.mem := rfl
@[simp] theorem State.setSt_fb (b : Byte) : (s.setSt b).fb = s.fb := rfl
@[simp] theorem State.setSt_key (b : Byte) : (s.setSt b).key = s.key := rfl
@[simp] theorem State.setSt_fault (b : Byte) : (s.setSt b).fault = s.fault := rfl
@[simp] theorem State.setSt_shiftUsesVy (b : Byte) : (s.setSt b).shiftUsesVy = s.shiftUsesVy := rfl
@[simp] theorem State.setSt_draws (b : Byte) : (s.setSt b).draws = s.draws := rfl
@[simp] theorem State.setSt_schedule (b : Byte) : (s.setSt b).schedule = s.schedule := rfl
@[simp] theorem State.setSt_reg (b : Byte) (q : Reg) : (s.setSt b).reg q = s.reg q := rfl

/-! ### State.setMem -/

@[simp] theorem State.setMem_v (m : Memory) : (s.setMem m).v = s.v := rfl
@[simp] theorem State.setMem_i (m : Memory) : (s.setMem m).i = s.i := rfl
@[simp] theorem State.setMem_pc (m : Memory) : (s.setMem m).pc = s.pc := rfl
@[simp] theorem State.setMem_sp (m : Memory) : (s.setMem m).sp = s.sp := rfl
@[simp] theorem State.setMem_stack (m : Memory) : (s.setMem m).stack = s.stack := rfl
@[simp] theorem State.setMem_dt (m : Memory) : (s.setMem m).dt = s.dt := rfl
@[simp] theorem State.setMem_st (m : Memory) : (s.setMem m).st = s.st := rfl
@[simp] theorem State.setMem_mem (m : Memory) : (s.setMem m).mem = m := rfl
@[simp] theorem State.setMem_fb (m : Memory) : (s.setMem m).fb = s.fb := rfl
@[simp] theorem State.setMem_key (m : Memory) : (s.setMem m).key = s.key := rfl
@[simp] theorem State.setMem_fault (m : Memory) : (s.setMem m).fault = s.fault := rfl
@[simp] theorem State.setMem_shiftUsesVy (m : Memory) : (s.setMem m).shiftUsesVy = s.shiftUsesVy := rfl
@[simp] theorem State.setMem_draws (m : Memory) : (s.setMem m).draws = s.draws := rfl
@[simp] theorem State.setMem_schedule (m : Memory) : (s.setMem m).schedule = s.schedule := rfl
@[simp] theorem State.setMem_reg (m : Memory) (q : Reg) : (s.setMem m).reg q = s.reg q := rfl

/-! ### State.setFb -/

@[simp] theorem State.setFb_v (fb : Framebuffer) : (s.setFb fb).v = s.v := rfl
@[simp] theorem State.setFb_i (fb : Framebuffer) : (s.setFb fb).i = s.i := rfl
@[simp] theorem State.setFb_pc (fb : Framebuffer) : (s.setFb fb).pc = s.pc := rfl
@[simp] theorem State.setFb_sp (fb : Framebuffer) : (s.setFb fb).sp = s.sp := rfl
@[simp] theorem State.setFb_stack (fb : Framebuffer) : (s.setFb fb).stack = s.stack := rfl
@[simp] theorem State.setFb_dt (fb : Framebuffer) : (s.setFb fb).dt = s.dt := rfl
@[simp] theorem State.setFb_st (fb : Framebuffer) : (s.setFb fb).st = s.st := rfl
@[simp] theorem State.setFb_mem (fb : Framebuffer) : (s.setFb fb).mem = s.mem := rfl
@[simp] theorem State.setFb_fb (fb : Framebuffer) : (s.setFb fb).fb = fb := rfl
@[simp] theorem State.setFb_key (fb : Framebuffer) : (s.setFb fb).key = s.key := rfl
@[simp] theorem State.setFb_fault (fb : Framebuffer) : (s.setFb fb).fault = s.fault := rfl
@[simp] theorem State.setFb_shiftUsesVy (fb : Framebuffer) : (s.setFb fb).shiftUsesVy = s.shiftUsesVy := rfl
@[simp] theorem State.setFb_draws (fb : Framebuffer) : (s.setFb fb).draws = s.draws := rfl
@[simp] theorem State.setFb_schedule (fb : Framebuffer) : (s.setFb fb).schedule = s.schedule := rfl
@[simp] theorem State.setFb_reg (fb : Framebuffer) (q : Reg) : (s.setFb fb).reg q = s.reg q := rfl

/-! ### State.setKeys -/

@[simp] theorem State.setKeys_v (k : Keypad) : (s.setKeys k).v = s.v := rfl
@[simp] theorem State.setKeys_i (k : Keypad) : (s.setKeys k).i = s.i := rfl
@[simp] theorem State.setKeys_pc (k : Keypad) : (s.setKeys k).pc = s.pc := rfl
@[simp] theorem State.setKeys_sp (k : Keypad) : (s.setKeys k).sp = s.sp := rfl
@[simp] theorem State.setKeys_stack (k : Keypad) : (s.setKeys k).stack = s.stack := rfl
@[simp] theorem State.setKeys_dt (k : Keypad) : (s.setKeys k).dt = s.dt := rfl
@[simp] theorem State.setKeys_st (k : Keypad) : (s.setKeys k).st = s.st := rfl
@[simp] theorem State.setKeys_mem (k : Keypad) : (s.setKeys k).mem = s.mem := rfl
@[simp] theorem State.setKeys_fb (k : Keypad) : (s.setKeys k).fb = s.fb := rfl
@[simp] theorem State.setKeys_key (k : Keypad) : (s.setKeys k).key = k := rfl
@[simp] theorem State.setKeys_fault (k : Keypad) : (s.setKeys k).fault = s.fault := rfl
@[simp] theorem State.setKeys_shiftUsesVy (k : Keypad) : (s.setKeys k).shiftUsesVy = s.shiftUsesVy := rfl
@[simp] theorem State.setKeys_draws (k : Keypad) : (s.setKeys k).draws = s.draws := rfl
@[simp] theorem State.setKeys_schedule (k : Keypad) : (s.setKeys k).schedule = s.schedule := rfl
@[simp] theorem State.setKeys_reg (k : Keypad) (q : Reg) : (s.setKeys k).reg q = s.reg q := rfl

/-! ### State.recordFault -/

@[simp] theorem State.recordFault_v (f : Fault) : (s.recordFault f).v = s.v := rfl
@[simp] theorem State.recordFault_i (f : Fault) : (s.recordFault f).i = s.i := rfl
@[simp] theorem State.recordFault_pc (f : Fault) : (s.recordFault f).pc = s.pc := rfl
@[simp] theorem State.recordFault_sp (f : Fault) : (s.recordFault f).sp = s.sp := rfl
@[simp] theorem State.recordFault_stack (f : Fault) : (s.recordFault f).stack = s.stack := rfl
@[simp] theorem State.recordFault_dt (f : Fault) : (s.recordFault f).dt = s.dt := rfl
@[simp] theorem State.recordFault_st (f : Fault) : (s.recordFault f).st = s.st := rfl
@[simp] theorem State.recordFault_mem (f : Fault) : (s.recordFault f).mem = s.mem := rfl
@[simp] theorem State.recordFault_fb (f : Fault) : (s.recordFault f).fb = s.fb := rfl
@[simp] theorem State.recordFault_key (f : Fault) : (s.recordFault f).key = s.key := rfl
@[simp] theorem State.recordFault_fault (f : Fault) : (s.recordFault f).fault = some f := rfl
@[simp] theorem State.recordFault_shiftUsesVy (f : Fault) : (s.recordFault f).shiftUsesVy = s.shiftUsesVy := rfl
@[simp] theorem State.recordFault_draws (f : Fault) : (s.recordFault f).draws = s.draws := rfl
@[simp] theorem State.recordFault_schedule (f : Fault) : (s.recordFault f).schedule = s.schedule := rfl
@[simp] theorem State.recordFault_reg (f : Fault) (q : Reg) : (s.recordFault f).reg q = s.reg q := rfl

/-! ### State.tick -/

@[simp] theorem State.tick_v : (s.tick).v = s.v := rfl
@[simp] theorem State.tick_i : (s.tick).i = s.i := rfl
@[simp] theorem State.tick_pc : (s.tick).pc = s.pc := rfl
@[simp] theorem State.tick_sp : (s.tick).sp = s.sp := rfl
@[simp] theorem State.tick_stack : (s.tick).stack = s.stack := rfl
@[simp] theorem State.tick_dt : (s.tick).dt = countDown s.dt := rfl
@[simp] theorem State.tick_st : (s.tick).st = countDown s.st := rfl
@[simp] theorem State.tick_mem : (s.tick).mem = s.mem := rfl
@[simp] theorem State.tick_fb : (s.tick).fb = s.fb := rfl
@[simp] theorem State.tick_key : (s.tick).key = s.key := rfl
@[simp] theorem State.tick_fault : (s.tick).fault = s.fault := rfl
@[simp] theorem State.tick_shiftUsesVy : (s.tick).shiftUsesVy = s.shiftUsesVy := rfl
@[simp] theorem State.tick_draws : (s.tick).draws = s.draws := rfl
@[simp] theorem State.tick_schedule : (s.tick).schedule = s.schedule := rfl
@[simp] theorem State.tick_reg (q : Reg) : (s.tick).reg q = s.reg q := rfl

/-! ### State.countDraw and State.randByte -/
@[simp] theorem State.countDraw_v : s.countDraw.v = s.v := rfl
@[simp] theorem State.countDraw_i : s.countDraw.i = s.i := rfl
@[simp] theorem State.countDraw_pc : s.countDraw.pc = s.pc := rfl
@[simp] theorem State.countDraw_sp : s.countDraw.sp = s.sp := rfl
@[simp] theorem State.countDraw_stack : s.countDraw.stack = s.stack := rfl
@[simp] theorem State.countDraw_dt : s.countDraw.dt = s.dt := rfl
@[simp] theorem State.countDraw_st : s.countDraw.st = s.st := rfl
@[simp] theorem State.countDraw_mem : s.countDraw.mem = s.mem := rfl
@[simp] theorem State.countDraw_fb : s.countDraw.fb = s.fb := rfl
@[simp] theorem State.countDraw_key : s.countDraw.key = s.key := rfl
@[simp] theorem State.countDraw_fault : s.countDraw.fault = s.fault := rfl
@[simp] theorem State.countDraw_shiftUsesVy : s.countDraw.shiftUsesVy = s.shiftUsesVy := rfl
@[simp] theorem State.countDraw_draws : s.countDraw.draws = s.draws + 1 := rfl
@[simp] theorem State.countDraw_schedule : s.countDraw.schedule = s.schedule := rfl
@[simp] theorem State.countDraw_reg (q : Reg) : s.countDraw.reg q = s.reg q := rfl
@[simp] theorem State.randByte_fst : s.randByte.1 = Config.randByte s.draws := rfl
@[simp] theorem State.randByte_snd : s.randByte.2 = s.countDraw := rfl

/-! ### State.advance -/

@[simp] theorem State.advance_v : (s.advance).v = s.v := rfl
@[simp] theorem State.advance_i : (s.advance).i = s.i := rfl
@[simp] theorem State.advance_pc : (s.advance).pc = s.pc + 2 := rfl
@[simp] theorem State.advance_sp : (s.advance).sp = s.sp := rfl
@[simp] theorem State.advance_stack : (s.advance).stack = s.stack := rfl
@[simp] theorem State.advance_dt : (s.advance).dt = s.dt := rfl
@[simp] theorem State.advance_st : (s.advance).st = s.st := rfl
@[simp] theorem State.advance_mem : (s.advance).mem = s.mem := rfl
@[simp] theorem State.advance_fb : (s.advance).fb = s.fb := rfl
@[simp] theorem State.advance_key : (s.advance).key = s.key := rfl
@[simp] theorem State.advance_fault : (s.advance).fault = s.fault := rfl
@[simp] theorem State.advance_shiftUsesVy : (s.advance).shiftUsesVy = s.shiftUsesVy := rfl
@[simp] theorem State.advance_draws : (s.advance).draws = s.draws := rfl
@[simp] theorem State.advance_schedule : (s.advance).schedule = s.schedule := rfl
@[simp] theorem State.advance_reg (q : Reg) : (s.advance).reg q = s.reg q := rfl

/-! ### State.skipIf -/

@[simp] theorem State.skipIf_v (c : Bool) : (s.skipIf c).v = s.v := rfl
@[simp] theorem State.skipIf_i (c : Bool) : (s.skipIf c).i = s.i := rfl
@[simp] theorem State.skipIf_pc (c : Bool) : (s.skipIf c).pc = s.pc + if c then 4 else 2 := rfl
@[simp] theorem State.skipIf_sp (c : Bool) : (s.skipIf c).sp = s.sp := rfl
@[simp] theorem State.skipIf_stack (c : Bool) : (s.skipIf c).stack = s.stack := rfl
@[simp] theorem State.skipIf_dt (c : Bool) : (s.skipIf c).dt = s.dt := rfl
@[simp] theorem State.skipIf_st (c : Bool) : (s.skipIf c).st = s.st := rfl
@[simp] theorem State.skipIf_mem (c : Bool) : (s.skipIf c).mem = s.mem := rfl
@[simp] theorem State.skipIf_fb (c : Bool) : (s.skipIf c).fb = s.fb := rfl
@[simp] theorem State.skipIf_key (c : Bool) : (s.skipIf c).key = s.key := rfl
@[simp] theorem State.skipIf_fault (c : Bool) : (s.skipIf c).fault = s.fault := rfl
@[simp] theorem State.skipIf_shiftUsesVy (c : Bool) : (s.skipIf c).shiftUsesVy = s.shiftUsesVy := rfl
@[simp] theorem State.skipIf_draws (c : Bool) : (s.skipIf c).draws = s.draws := rfl
@[simp] theorem State.skipIf_schedule (c : Bool) : (s.skipIf c).schedule = s.schedule := rfl
@[simp] theorem State.skipIf_reg (c : Bool) (q : Reg) : (s.skipIf c).reg q = s.reg q := rfl

/-! ### Keys -/

@[simp] theorem State.setReg_keyPressed (r : Reg) (b : Byte) (k : Fin 16) :
    (s.setReg r b).keyPressed k = s.keyPressed k := rfl

@[simp] theorem State.advance_keyPressed (k : Fin 16) : s.advance.keyPressed k = s.keyPressed k := rfl

@[simp] theorem State.skipIf_keyPressed (c : Bool) (k : Fin 16) :
    (s.skipIf c).keyPressed k = s.keyPressed k := rfl

/-! ### Results with a flag (R106) -/

/-- All writeWithFlag does to registers: VF holds the flag, whatever x is; then Vx the result. -/
@[simp] theorem State.writeWithFlag_reg (x : Reg) (a f : Byte) (q : Reg) :
    (s.writeWithFlag x a f).reg q = if q = VF then f else if q = x then a else s.reg q := by
  simp [State.writeWithFlag]

/-- All else writeWithFlag does: the default advance. -/
theorem State.writeWithFlag_eq (x : Reg) (a f : Byte) :
    s.writeWithFlag x a f = { s with v := (s.writeWithFlag x a f).v, pc := s.pc + 2 } := rfl

/-! ### The stack (R26) -/

/-- push below the capacity. -/
theorem State.push_ok (a : Word) (h : s.sp.val < 16) :
    s.push a = .ok { s with stack := s.stack.set s.sp.val a, sp := ⟨s.sp.val + 1, by omega⟩ } := by
  simp [State.push, h]

/-- push at the capacity reports Overflow. -/
theorem State.push_full (a : Word) (h : s.sp.val = 16) : s.push a = .error (.stackOverflow s.pc) := by
  simp [State.push, h]

/-- pop of a stack that holds an entry. -/
theorem State.pop_ok (h : 0 < s.sp.val) :
    s.pop = .ok (s.stack[s.sp.val - 1], { s with sp := ⟨s.sp.val - 1, by omega⟩ }) := by
  simp only [State.pop, h, dif_pos]

/-- pop of an empty stack reports Underflow. -/
theorem State.pop_empty (h : s.sp.val = 0) : s.pop = .error (.stackUnderflow s.pc) := by
  simp [State.pop, h]

/-! ### The driver's inputs (log 3) -/

/-- An input changes timers and keys alone. -/
theorem State.input_eq (h : HostInput) :
    s.input h = { s with dt := (s.input h).dt, st := (s.input h).st, key := (s.input h).key } := by
  cases h <;> rfl

/-- So does a list of inputs. -/
theorem State.foldl_input_eq (hs : List HostInput) (s : State) :
    hs.foldl State.input s = { s with dt := (hs.foldl State.input s).dt, st := (hs.foldl State.input s).st,
                                      key := (hs.foldl State.input s).key } := by
  induction hs generalizing s with
  | nil => rfl
  | cons h hs ih =>
    rw [List.foldl_cons, ih]
    rw [State.input_eq s h]

/-- All that taking the inputs before a step can change: timers, keys and the schedule itself. -/
theorem State.takeInputs_eq :
    s.takeInputs = { s with dt := s.takeInputs.dt, st := s.takeInputs.st, key := s.takeInputs.key,
                            schedule := s.takeInputs.schedule } := by
  unfold State.takeInputs
  split
  · rfl
  · rw [State.foldl_input_eq]

theorem State.takeInputs_pc : s.takeInputs.pc = s.pc := by rw [State.takeInputs_eq]

theorem State.takeInputs_mem : s.takeInputs.mem = s.mem := by rw [State.takeInputs_eq]

theorem State.takeInputs_fault : s.takeInputs.fault = s.fault := by rw [State.takeInputs_eq]

theorem State.takeInputs_stack : s.takeInputs.stack = s.stack := by rw [State.takeInputs_eq]

theorem State.takeInputs_sp : s.takeInputs.sp = s.sp := by rw [State.takeInputs_eq]

theorem State.takeInputs_i : s.takeInputs.i = s.i := by rw [State.takeInputs_eq]

theorem State.takeInputs_reg (r : Reg) : s.takeInputs.reg r = s.reg r := by rw [State.takeInputs_eq]; rfl

/-- With nothing scheduled, nothing happens before a step. -/
theorem State.takeInputs_nil (h : s.schedule = []) : s.takeInputs = s := by
  simp [State.takeInputs, h]

end Sys2Proof.Machine
end

