-- ==== Sys2Proof/Laws/Display.lean ====
section
/-! SUPPORT. Laws/Display.lean: what setting a pixel and drawing a sprite do (45_display_keypad.md R204). -/

namespace Sys2Proof.Machine

/-- A pixel read after a pixel was set. -/
theorem Framebuffer.get_set (fb : Framebuffer) (x qx : Fin 64) (y qy : Fin 32) (b : Bool) :
    (fb.set x y b).get qx qy = if qx = x ∧ qy = y then b else fb.get qx qy := by
  unfold Framebuffer.set Framebuffer.get
  by_cases hy : qy = y
  · subst hy
    by_cases hx : qx = x
    · subst hx; simp
    · have : x.val ≠ qx.val := fun e => hx (Fin.ext e.symm)
      simp [hx, Vector.getElem_set_ne _ _ this]
  · have : y.val ≠ qy.val := fun e => hy (Fin.ext e.symm)
    simp [hy, Vector.getElem_set_ne _ _ this]

/-- Every pixel of the cleared framebuffer is off. -/
theorem Framebuffer.get_cleared (qx : Fin 64) (qy : Fin 32) : Framebuffer.cleared.get qx qy = false := by
  simp [Framebuffer.cleared, Framebuffer.get]

/-- What a partial drawing has done, when `lit` is the set of pixels drawn so far, each once: those pixels complemented,
and a collision exactly if one of them was on. -/
def Drawn (fb : Framebuffer) (lit : Fin 64 → Fin 32 → Bool) (acc : Framebuffer × Bool) : Prop :=
  (∀ qx qy, acc.1.get qx qy = (fb.get qx qy ^^ lit qx qy)) ∧
    (acc.2 = true ↔ ∃ qx qy, lit qx qy = true ∧ fb.get qx qy = true)

/-- Plotting a pixel not drawn yet adds it. -/
theorem Drawn.plot {fb : Framebuffer} {lit : Fin 64 → Fin 32 → Bool} {acc : Framebuffer × Bool} (h : Drawn fb lit acc)
    (px : Fin 64) (py : Fin 32) (hn : lit px py = false) :
    Drawn fb (fun qx qy => lit qx qy || (decide (qx = px) && decide (qy = py))) (plot px py acc) := by
  obtain ⟨h1, h2⟩ := h
  refine ⟨fun qx qy => ?_, ?_⟩
  · simp only [Machine.plot, Framebuffer.get_set]
    by_cases hq : qx = px ∧ qy = py
    · obtain ⟨rfl, rfl⟩ := hq
      simp [h1, hn]
    · rw [if_neg hq, h1]
      rcases not_and_or.mp hq with hq | hq <;> simp [hq]
  · simp only [Machine.plot, Bool.or_eq_true, Bool.and_eq_true, decide_eq_true_eq, h2, h1, hn, Bool.xor_false]
    constructor
    · rintro (⟨qx, qy, hl, hf⟩ | hf)
      · exact ⟨qx, qy, .inl hl, hf⟩
      · exact ⟨px, py, .inr ⟨rfl, rfl⟩, hf⟩
    · rintro ⟨qx, qy, hl | ⟨rfl, rfl⟩, hf⟩
      · exact .inl ⟨qx, qy, hl, hf⟩
      · exact .inr hf

theorem Drawn.congr {fb : Framebuffer} {lit lit' : Fin 64 → Fin 32 → Bool} {acc : Framebuffer × Bool}
    (h : Drawn fb lit acc) (e : ∀ qx qy, lit qx qy = lit' qx qy) : Drawn fb lit' acc := by
  obtain rfl : lit = lit' := funext fun qx => funext fun qy => e qx qy
  exact h

/-- The column that pixel column qx is of a sprite at px0: the col with (px0 + col) mod 64 = qx. -/
def spriteCol (px0 : Byte) (qx : Fin 64) : Nat := (qx.val + 64 - px0.toNat % 64) % 64

/-- The row that pixel line qy is of a sprite at py0. -/
def spriteRow (py0 : Byte) (qy : Fin 32) : Nat := (qy.val + 32 - py0.toNat % 32) % 32

theorem spriteCol_eq_iff (px0 : Byte) (qx : Fin 64) (col : Nat) (h : col < 64) :
    spriteCol px0 qx = col ↔ qx = Fin.ofNat 64 (px0.toNat + col) := by
  rw [Fin.ext_iff]
  simp only [spriteCol, Fin.ofNat]
  omega

theorem spriteRow_eq_iff (py0 : Byte) (qy : Fin 32) (row : Nat) (h : row < 32) :
    spriteRow py0 qy = row ↔ qy = Fin.ofNat 32 (py0.toNat + row) := by
  rw [Fin.ext_iff]
  simp only [spriteRow, Fin.ofNat]
  omega

/-- One row: the first c columns of byte b, on line row. -/
theorem Drawn.rowPrefix {fb : Framebuffer} {lit : Fin 64 → Fin 32 → Bool} {acc : Framebuffer × Bool}
    (h : Drawn fb lit acc) (b px0 py0 : Byte) (row : Nat) (hr : row < 32)
    (hn : ∀ qx qy, lit qx qy = true → spriteRow py0 qy < row) (c : Nat) (hc : c ≤ 8) :
    Drawn fb (fun qx qy => lit qx qy || (decide (spriteRow py0 qy = row) && decide (spriteCol px0 qx < c)
        && b.getLsbD (7 - spriteCol px0 qx)))
      ((List.range c).foldl (drawBit b px0 (Fin.ofNat 32 (py0.toNat + row))) acc) := by
  induction c with
  | zero => exact h.congr fun qx qy => by simp
  | succ c ih =>
    have ih := ih (by omega)
    rw [List.range_succ, List.foldl_append, List.foldl_cons, List.foldl_nil]
    set a := (List.range c).foldl (drawBit b px0 (Fin.ofNat 32 (py0.toNat + row))) acc
    have hrow := fun qy => spriteRow_eq_iff py0 qy row hr
    have hcol := fun qx => spriteCol_eq_iff px0 qx c (by omega)
    unfold drawBit
    split
    · rename_i hb
      have hlit : lit (Fin.ofNat 64 (px0.toNat + c)) (Fin.ofNat 32 (py0.toNat + row)) = false := by
        by_contra hl
        have := hn _ _ (Bool.eq_true_of_not_eq_false hl)
        rw [(hrow _).mpr rfl] at this
        exact Nat.lt_irrefl _ this
      refine (ih.plot (Fin.ofNat 64 (px0.toNat + c)) (Fin.ofNat 32 (py0.toNat + row)) ?_).congr fun qx qy => ?_
      · simp only [hlit, (hcol _).mpr rfl, Nat.lt_irrefl, decide_false, Bool.and_false, Bool.false_and, Bool.or_false]
      · have e1 : decide (qx = Fin.ofNat 64 (px0.toNat + c)) = decide (spriteCol px0 qx = c) := by simp [hcol]
        have e2 : decide (qy = Fin.ofNat 32 (py0.toNat + row)) = decide (spriteRow py0 qy = row) := by simp [hrow]
        rw [e1, e2, Bool.or_assoc]
        congr 1
        by_cases hy : spriteRow py0 qy = row
        · rcases Nat.lt_trichotomy (spriteCol px0 qx) c with hx | hx | hx
          · simp [hy, hx, Nat.lt_succ_of_lt hx, Nat.ne_of_lt hx]
          · simp [hy, hx, hb]
          · have h1 : ¬spriteCol px0 qx < c := by omega
            have h2 : ¬spriteCol px0 qx < c + 1 := by omega
            simp [hy, h1, h2, Nat.ne_of_gt hx]
        · simp [hy]
    · rename_i hb
      refine ih.congr fun qx qy => ?_
      congr 1
      by_cases hx : spriteCol px0 qx = c
      · simp [hx, hb]
      · have : (spriteCol px0 qx < c + 1) = (spriteCol px0 qx < c) := propext (by omega)
        simp only [this]

/-- All that drawing a sprite does, at most 31 rows: each pixel XORed with its sprite bit, and a collision exactly if a
set bit met a pixel that was on (R204, R205). -/
theorem drawSprite_drawn (s : State) (px0 py0 : Byte) (n : Nat) (hn : n < 32) :
    Drawn s.fb (spriteBit s px0 py0 n) (drawSprite s px0 py0 n) := by
  unfold drawSprite
  induction n with
  | zero =>
    refine ⟨fun qx qy => by simp [spriteBit], ?_⟩
    simp [spriteBit]
  | succ n ih =>
    rw [List.range_succ, List.foldl_append, List.foldl_cons, List.foldl_nil]
    have h := (ih (by omega)).rowPrefix (s.mem.read (s.i.toNat + n)) px0 py0 n (by omega)
      (fun qx qy hl => by
        simp only [spriteBit, Bool.and_eq_true, decide_eq_true_eq] at hl
        exact hl.1.2) 8 (by omega)
    refine Drawn.congr h fun qx qy => ?_
    show (spriteBit s px0 py0 n qx qy || _) = spriteBit s px0 py0 (n + 1) qx qy
    simp only [spriteBit]
    rw [show (qx.val + 64 - px0.toNat % 64) % 64 = spriteCol px0 qx from rfl,
      show (qy.val + 32 - py0.toNat % 32) % 32 = spriteRow py0 qy from rfl]
    rcases Nat.lt_trichotomy (spriteRow py0 qy) n with hy | hy | hy
    · simp [hy, Nat.lt_succ_of_lt hy, Nat.ne_of_lt hy]
    · simp [hy]
    · have h1 : ¬spriteRow py0 qy < n := by omega
      have h2 : ¬spriteRow py0 qy < n + 1 := by omega
      simp [h1, h2, Nat.ne_of_gt hy]

end Sys2Proof.Machine
end

