-- ==== Sys2Proof/Laws/Exec.lean ====
section
/-! SUPPORT. Laws/Exec.lean: exec of each instruction is its meaning: one lemma per arm, so that no proof unfolds the
dispatch. -/

namespace Sys2Proof.Machine

theorem exec_clearDisplay (s : State) : exec .clearDisplay s = execClearDisplay s := rfl

theorem exec_ret (s : State) : exec .ret s = execRet s := rfl

theorem exec_jump (nnn : Addr) (s : State) : exec (.jump nnn) s = execJump nnn s := rfl

theorem exec_call (nnn : Addr) (s : State) : exec (.call nnn) s = execCall nnn s := rfl

theorem exec_skipEqImm (x : Reg) (kk : Byte) (s : State) : exec (.skipEqImm x kk) s = execSkipEqImm x kk s := rfl

theorem exec_skipNeImm (x : Reg) (kk : Byte) (s : State) : exec (.skipNeImm x kk) s = execSkipNeImm x kk s := rfl

theorem exec_skipEqReg (x y : Reg) (s : State) : exec (.skipEqReg x y) s = execSkipEqReg x y s := rfl

theorem exec_setImm (x : Reg) (kk : Byte) (s : State) : exec (.setImm x kk) s = execSetImm x kk s := rfl

theorem exec_addImm (x : Reg) (kk : Byte) (s : State) : exec (.addImm x kk) s = execAddImm x kk s := rfl

theorem exec_assign (x y : Reg) (s : State) : exec (.assign x y) s = execAssign x y s := rfl

theorem exec_or (x y : Reg) (s : State) : exec (.or x y) s = execOr x y s := rfl

theorem exec_and (x y : Reg) (s : State) : exec (.and x y) s = execAnd x y s := rfl

theorem exec_xor (x y : Reg) (s : State) : exec (.xor x y) s = execXor x y s := rfl

theorem exec_add (x y : Reg) (s : State) : exec (.add x y) s = execAdd x y s := rfl

theorem exec_sub (x y : Reg) (s : State) : exec (.sub x y) s = execSub x y s := rfl

theorem exec_shiftRight (x y : Reg) (s : State) : exec (.shiftRight x y) s = execShiftRight x y s := rfl

theorem exec_reverseSub (x y : Reg) (s : State) : exec (.reverseSub x y) s = execReverseSub x y s := rfl

theorem exec_shiftLeft (x y : Reg) (s : State) : exec (.shiftLeft x y) s = execShiftLeft x y s := rfl

theorem exec_skipNeReg (x y : Reg) (s : State) : exec (.skipNeReg x y) s = execSkipNeReg x y s := rfl

theorem exec_setIndex (nnn : Addr) (s : State) : exec (.setIndex nnn) s = execSetIndex nnn s := rfl

theorem exec_jumpOffset (nnn : Addr) (s : State) : exec (.jumpOffset nnn) s = execJumpOffset nnn s := rfl

theorem exec_randomAnd (x : Reg) (kk : Byte) (s : State) : exec (.randomAnd x kk) s = execRandomAnd x kk s := rfl

theorem exec_draw (x y : Reg) (n : Fin 16) (s : State) : exec (.draw x y n) s = execDraw x y n s := rfl

theorem exec_skipKeyPressed (x : Reg) (s : State) : exec (.skipKeyPressed x) s = execSkipKeyPressed x s := rfl

theorem exec_skipKeyNotPressed (x : Reg) (s : State) : exec (.skipKeyNotPressed x) s = execSkipKeyNotPressed x s := rfl

theorem exec_getDelay (x : Reg) (s : State) : exec (.getDelay x) s = execGetDelay x s := rfl

theorem exec_waitKey (x : Reg) (s : State) : exec (.waitKey x) s = execWaitKey x s := rfl

theorem exec_setDelay (x : Reg) (s : State) : exec (.setDelay x) s = execSetDelay x s := rfl

theorem exec_setSound (x : Reg) (s : State) : exec (.setSound x) s = execSetSound x s := rfl

theorem exec_addIndex (x : Reg) (s : State) : exec (.addIndex x) s = execAddIndex x s := rfl

theorem exec_setIndexGlyph (x : Reg) (s : State) : exec (.setIndexGlyph x) s = execSetIndexGlyph x s := rfl

theorem exec_bcdStore (x : Reg) (s : State) : exec (.bcdStore x) s = execBcdStore x s := rfl

theorem exec_registerDump (x : Reg) (s : State) : exec (.registerDump x) s = execRegisterDump x s := rfl

theorem exec_registerLoad (x : Reg) (s : State) : exec (.registerLoad x) s = execRegisterLoad x s := rfl

end Sys2Proof.Machine
end

