-- ==== Sys2Proof/Laws/Memory.lean ====
section
/-! SUPPORT. Laws/Memory.lean: what the memory operations do: a read after a write, bytes elsewhere, and the canonical
form kept (20_memory.md R54, R58). -/

namespace Sys2Proof.Machine

/-! ### One byte -/

theorem Memory.read_nil (a : Nat) : Memory.read [] a = resetByte a := rfl

theorem Memory.read_cons (c : Host.Cell) (m : Memory) (a : Nat) :
    Memory.read (c :: m) a = if c.1 = a then c.2 else Memory.read m a := by
  by_cases h : c.1 = a <;> simp [Memory.read, h]

theorem Memory.read_filter_same (m : Memory) (a : Nat) :
    Memory.read (m.filter fun c => c.1 != a) a = resetByte a := by
  induction m with
  | nil => rfl
  | cons c m ih =>
    by_cases h : c.1 = a
    · simpa [h] using ih
    · simp only [List.filter_cons, bne_iff_ne, ne_eq, h, not_false_eq_true, if_true, Memory.read_cons, if_false, ih]

theorem Memory.read_filter_other (m : Memory) {a e : Nat} (h : e ≠ a) :
    Memory.read (m.filter fun c => c.1 != a) e = Memory.read m e := by
  induction m with
  | nil => rfl
  | cons c m ih =>
    by_cases hc : c.1 = a
    · have hce : c.1 ≠ e := fun x => h (x.symm.trans hc)
      simp only [List.filter_cons, hc, bne_self_eq_false, Bool.false_eq_true, if_false, ih, Memory.read_cons]
      rw [if_neg (fun x => h x.symm)]
    · simp only [List.filter_cons, bne_iff_ne, ne_eq, hc, not_false_eq_true, if_true, Memory.read_cons, ih]

theorem Memory.read_insert_other (m : Memory) {a e : Nat} (b : Byte) (h : e ≠ a) :
    Memory.read (Memory.insert a b m) e = Memory.read m e := by
  induction m with
  | nil => simp [Memory.insert, Memory.read_cons, Ne.symm h]
  | cons c m ih =>
    unfold Memory.insert
    split
    · rw [Memory.read_cons, if_neg (Ne.symm h)]
    · rw [Memory.read_cons, Memory.read_cons, ih]

theorem Memory.read_insert_same (m : Memory) (a : Nat) (b : Byte) (h : ∀ c ∈ m, c.1 ≠ a) :
    Memory.read (Memory.insert a b m) a = b := by
  induction m with
  | nil => simp [Memory.insert, Memory.read_cons]
  | cons c m ih =>
    unfold Memory.insert
    split
    · simp [Memory.read_cons]
    · rw [Memory.read_cons, if_neg (h c (by simp)), ih fun d hd => h d (by simp [hd])]

/-- A read after a write to the same address gives the byte written (R54). -/
theorem Memory.read_write_same (m : Memory) {a : Nat} (b : Byte) (ha : a < Config.memSize) :
    (m.write a b).read a = b := by
  unfold Memory.write
  rw [if_pos ha]
  split
  · rename_i hb
    rw [Memory.read_filter_same, hb]
  · exact Memory.read_insert_same _ _ _ fun c hc => by simpa using (List.mem_filter.mp hc).2

/-- A write leaves every other address alone (R54). -/
theorem Memory.read_write_other (m : Memory) {a e : Nat} (b : Byte) (h : e ≠ a) :
    (m.write a b).read e = m.read e := by
  unfold Memory.write
  split
  · split
    · exact Memory.read_filter_other m h
    · rw [Memory.read_insert_other _ _ h, Memory.read_filter_other m h]
  · rfl

/-! ### Consecutive bytes -/

/-- All that writing consecutive bytes does (R58): the k-th byte is at a + k, every other address reads as before. -/
theorem Memory.read_writeBytes (m : Memory) (a : Nat) (bs : List Byte) (h : a + bs.length ≤ Config.memSize) (e : Nat) :
    (m.writeBytes a bs).read e = if a ≤ e ∧ e < a + bs.length then bs.getD (e - a) 0 else m.read e := by
  induction bs generalizing m a with
  | nil => simp [Memory.writeBytes]
  | cons b bs ih =>
    have hl : (b :: bs).length = bs.length + 1 := rfl
    rw [Memory.writeBytes, ih _ _ (by omega)]
    by_cases he : e = a
    · subst he
      rw [if_neg (by omega), Memory.read_write_same _ _ (by omega), if_pos (by omega)]
      simp
    · rw [Memory.read_write_other _ _ he]
      by_cases hr : a + 1 ≤ e ∧ e < a + 1 + bs.length
      · rw [if_pos hr, if_pos (by omega)]
        obtain ⟨k, rfl⟩ : ∃ k, e = a + 1 + k := ⟨e - (a + 1), by omega⟩
        rw [show a + 1 + k - (a + 1) = k by omega, show a + 1 + k - a = k + 1 by omega, List.getD_cons_succ]
      · rw [if_neg hr, if_neg (by omega)]

/-- A write at an address outside [a, a + length) is not made, whatever the length. -/
theorem Memory.read_writeBytes_outside (m : Memory) (a : Nat) (bs : List Byte) (e : Nat)
    (h : e < a ∨ a + bs.length ≤ e) : (m.writeBytes a bs).read e = m.read e := by
  induction bs generalizing m a with
  | nil => rfl
  | cons b bs ih =>
    have hl : (b :: bs).length = bs.length + 1 := rfl
    rw [Memory.writeBytes, ih _ _ (by omega), Memory.read_write_other _ _ (by omega)]

/-! ### The canonical form -/

theorem Memory.mem_insert {m : Memory} {a : Nat} {b : Byte} {c : Host.Cell} (h : c ∈ Memory.insert a b m) :
    c = (a, b) ∨ c ∈ m := by
  induction m with
  | nil => simpa [Memory.insert] using h
  | cons d m ih =>
    unfold Memory.insert at h
    split at h
    · simpa using h
    · rcases List.mem_cons.mp h with rfl | h
      · simp
      · rcases ih h with h | h <;> simp [h]

theorem Memory.pairwise_insert {m : Memory} {a : Nat} {b : Byte} (hm : m.Pairwise fun c d => c.1 < d.1)
    (ha : ∀ c ∈ m, c.1 ≠ a) : (Memory.insert a b m).Pairwise fun c d => c.1 < d.1 := by
  induction m with
  | nil => simp [Memory.insert]
  | cons d m ih =>
    have hd := List.pairwise_cons.mp hm
    unfold Memory.insert
    split
    · rename_i hlt
      refine List.pairwise_cons.mpr ⟨fun c hc => ?_, hm⟩
      rcases List.mem_cons.mp hc with rfl | hc
      · exact hlt
      · exact Nat.lt_trans hlt (hd.1 c hc)
    · rename_i hlt
      refine List.pairwise_cons.mpr ⟨fun c hc => ?_, ih hd.2 fun c hc => ha c (by simp [hc])⟩
      rcases Memory.mem_insert hc with rfl | hc
      · exact Nat.lt_of_le_of_ne (Nat.le_of_not_lt hlt) (ha d (by simp))
      · exact hd.1 c hc

theorem Memory.wf_iff (m : Memory) : m.wf = true ↔
    (m.Pairwise fun c d => c.1 < d.1) ∧ ∀ c ∈ m, c.1 < Config.memSize ∧ c.2 ≠ resetByte c.1 := by
  simp [Memory.wf]

theorem Memory.wf_nil : Memory.wf [] = true := rfl

/-- A write keeps the canonical form. -/
theorem Memory.write_wf {m : Memory} (a : Nat) (b : Byte) (h : m.wf = true) : (m.write a b).wf = true := by
  obtain ⟨hp, hc⟩ := (Memory.wf_iff m).mp h
  unfold Memory.write
  split
  · rename_i ha
    have hf : ∀ c ∈ m.filter (fun c => c.1 != a), c.1 ≠ a := fun c hc => by simpa using (List.mem_filter.mp hc).2
    split
    · exact (Memory.wf_iff _).mpr ⟨hp.filter _, fun c hm => hc c (List.mem_filter.mp hm).1⟩
    · rename_i hb
      refine (Memory.wf_iff _).mpr ⟨Memory.pairwise_insert (hp.filter _) hf, fun c hm => ?_⟩
      rcases Memory.mem_insert hm with rfl | hm
      · exact ⟨ha, hb⟩
      · exact hc c (List.mem_filter.mp hm).1
  · exact h

/-- So do consecutive writes. -/
theorem Memory.writeBytes_wf {m : Memory} (a : Nat) (bs : List Byte) (h : m.wf = true) :
    (m.writeBytes a bs).wf = true := by
  induction bs generalizing m a with
  | nil => exact h
  | cons b bs ih => exact ih _ (Memory.write_wf _ _ h)

/-- Two memories in canonical form that read the same everywhere are the same data. -/
theorem Memory.ext_of_read {m n : Memory} (hm : m.wf = true) (hn : n.wf = true) (h : ∀ a, m.read a = n.read a) :
    m = n := by
  obtain ⟨hmp, hmc⟩ := (Memory.wf_iff m).mp hm
  obtain ⟨hnp, hnc⟩ := (Memory.wf_iff n).mp hn
  clear hm hn
  induction m generalizing n with
  | nil =>
    cases n with
    | nil => rfl
    | cons d n =>
      have := h d.1
      rw [Memory.read_nil, Memory.read_cons, if_pos rfl] at this
      exact absurd this.symm (hnc d (by simp)).2
  | cons c m ih =>
    cases n with
    | nil =>
      have := h c.1
      rw [Memory.read_nil, Memory.read_cons, if_pos rfl] at this
      exact absurd this (hmc c (by simp)).2
    | cons d n =>
      have below : ∀ {p : Memory} {a : Nat}, (∀ e ∈ p, a < e.1) → Memory.read p a = resetByte a := by
        intro p a hp
        induction p with
        | nil => rfl
        | cons e p ih =>
          rw [Memory.read_cons, if_neg (Nat.ne_of_gt (hp e (by simp))), ih fun f hf => hp f (by simp [hf])]
      have hm' := List.pairwise_cons.mp hmp
      have hn' := List.pairwise_cons.mp hnp
      have hcd : c.1 = d.1 := by
        rcases Nat.lt_trichotomy c.1 d.1 with hlt | heq | hgt
        · have e := h c.1
          rw [Memory.read_cons, if_pos rfl, below (p := d :: n)] at e
          · exact absurd e (hmc c (by simp)).2
          · intro f hf
            rcases List.mem_cons.mp hf with rfl | hf
            · exact hlt
            · exact Nat.lt_trans hlt (hn'.1 f hf)
        · exact heq
        · have e := h d.1
          rw [Memory.read_cons d, if_pos rfl, below (p := c :: m)] at e
          · exact absurd e.symm (hnc d (by simp)).2
          · intro f hf
            rcases List.mem_cons.mp hf with rfl | hf
            · exact hgt
            · exact Nat.lt_trans hgt (hm'.1 f hf)
      have hb : c.2 = d.2 := by
        have e := h c.1
        rwa [Memory.read_cons, if_pos rfl, Memory.read_cons, if_pos hcd.symm] at e
      have htail : m = n := by
        refine ih (fun a => ?_) hm'.2 (fun e he => hmc e (by simp [he])) hn'.2 (fun e he => hnc e (by simp [he]))
        by_cases ha : a = c.1
        · subst ha
          rw [below (fun e he => hm'.1 e he), below (fun e he => hcd ▸ hn'.1 e he)]
        · have e := h a
          rwa [Memory.read_cons, if_neg (Ne.symm ha), Memory.read_cons, if_neg (hcd ▸ Ne.symm ha)] at e
      rw [htail, Prod.ext hcd hb]

/-! ### The fetch (R55, R56) and the placing of a word (log 1) -/

theorem wordOfBytes_high_low (w : Word) : wordOfBytes (highByte w) (lowByte w) = w := by
  unfold wordOfBytes highByte lowByte
  ext i hi
  simp only [BitVec.getElem_append, BitVec.getElem_extractLsb']
  split
  · simp [BitVec.getLsbD_eq_getElem hi]
  · have h8 : 8 + (i - 8) = i := by omega
    rw [h8, BitVec.getLsbD_eq_getElem hi]

/-- A fetch with PC in bounds reads the two bytes at PC. -/
theorem State.fetch_ok (s : State) (h : s.pc.toNat ≤ 0xFFE) : s.fetch = .ok (s.mem.fetchWord s.pc.toNat) := by
  simp [State.fetch, h]

/-- A fetch with PC out of bounds faults. -/
theorem State.fetch_out (s : State) (h : 0xFFE < s.pc.toNat) : s.fetch = .error (.boundsFetch s.pc) := by
  simp [State.fetch, Nat.not_le.mpr h]

/-- A word placed is the word the next step fetches. -/
theorem State.placeWord_fetch (s : State) (w : Word) : (s.placeWord w).fetch = .ok w := by
  have hpc : (if s.pc.toNat ≤ 0xFFE then s.pc else entryPc).toNat ≤ 0xFFE := by
    split
    · assumption
    · decide
  rw [State.fetch_ok _ hpc]
  simp only [State.placeWord, Memory.fetchWord]
  generalize (if s.pc.toNat ≤ 0xFFE then s.pc else entryPc) = p at hpc
  have hlen : p.toNat + [highByte w, lowByte w].length ≤ Config.memSize := by
    simp only [List.length_cons, List.length_nil, Config.memSize]; omega
  rw [Memory.read_writeBytes _ _ _ hlen, Memory.read_writeBytes _ _ _ hlen]
  simp [wordOfBytes_high_low]

end Sys2Proof.Machine
end

