-- ==== Sys2Proof/Laws/Operands.lean ====
section
/-! SUPPORT. Laws/Operands.lean: what the range check, the key index, the bytes of the registers and the register load
do (43_index_memory.md R170, R175, R176; 45_display_keypad.md R209). -/

namespace Sys2Proof.Machine

/-- The address check_range reports: with a byte out of memory, max(I, 0x1000); else none (R170). -/
theorem firstBadAddr_eq (i : Word) (n : Nat) :
    firstBadAddr i n = if 0 < n ∧ 0x1000 < i.toNat + n then some (max i.toNat 0x1000) else none := by
  unfold firstBadAddr
  rw [List.find?_map]
  split
  · rename_i h
    have hk : (List.range n).find? ((fun a => decide (0xFFF < a)) ∘ fun k => i.toNat + k)
        = some (0x1000 - i.toNat) := by
      rw [List.find?_range_eq_some]
      refine ⟨?_, ?_, fun j hj => ?_⟩
      · simp; omega
      · simp; omega
      · simp; omega
    rw [hk, Option.map_some]
    congr 1
    omega
  · rename_i h
    have hk : (List.range n).find? ((fun a => decide (0xFFF < a)) ∘ fun k => i.toNat + k) = none := by
      rw [List.find?_range_eq_none]
      intro j hj
      simp; omega
    rw [hk, Option.map_none]

/-- In range, the effect happens. -/
theorem State.inRange_ok (s : State) {n : Nat} (t : State) (h : n = 0 ∨ s.i.toNat + n ≤ 0x1000) :
    s.inRange n t = .next t := by
  unfold State.inRange
  rw [firstBadAddr_eq, if_neg (by omega)]

/-- Out of range, BoundsFault(Index) and no effect. -/
theorem State.inRange_bad (s : State) {n : Nat} (t : State) (h : 0 < n) (hi : 0x1000 < s.i.toNat + n) :
    s.inRange n t = .fault (.boundsIndex (max s.i.toNat 0x1000)) := by
  unfold State.inRange
  rw [firstBadAddr_eq, if_pos ⟨h, hi⟩]
  rfl

/-- All a range-checked effect can do. -/
theorem State.inRange_cases (s : State) (n : Nat) (t : State) :
    (s.inRange n t = .next t ∧ (n = 0 ∨ s.i.toNat + n ≤ 0x1000))
      ∨ (s.inRange n t = .fault (.boundsIndex (max s.i.toNat 0x1000)) ∧ 0 < n ∧ 0x1000 < s.i.toNat + n) := by
  by_cases h : n = 0 ∨ s.i.toNat + n ≤ 0x1000
  · exact .inl ⟨s.inRange_ok t h, h⟩
  · exact .inr ⟨s.inRange_bad t (by omega) (by omega), by omega, by omega⟩

/-- A key index 0..15 is that key. -/
theorem State.keyIndex_ok (s : State) (x : Reg) (h : (s.reg x).toNat < 16) :
    s.keyIndex x = .ok ⟨(s.reg x).toNat, h⟩ := by
  simp [State.keyIndex, h]

/-- A key index above 15 faults. -/
theorem State.keyIndex_bad (s : State) (x : Reg) (h : 15 < (s.reg x).toNat) :
    s.keyIndex x = .error (.boundsKeypad (s.reg x)) := by
  simp [State.keyIndex, Nat.not_lt.mpr h]

theorem State.regsUpTo_length (s : State) (x : Reg) : (s.regsUpTo x).length = x.val + 1 := by
  simp [State.regsUpTo]

/-- The k-th of V0..Vx is Vk. -/
theorem State.regsUpTo_getD (s : State) (x k : Reg) (h : k ≤ x) : (s.regsUpTo x).getD k.val 0 = s.reg k := by
  have hk : k.val < x.val + 1 := Nat.lt_succ_of_le h
  simp [State.regsUpTo, List.getD_eq_getElem?_getD, List.getElem?_map, List.getElem?_range hk]

/-- Loading registers changes registers alone. -/
theorem State.loadRegs_eq (s : State) (ks : List Nat) : s.loadRegs ks = { s with v := (s.loadRegs ks).v } := by
  induction ks generalizing s with
  | nil => rfl
  | cons k ks ih =>
    rw [State.loadRegs, ih]
    rfl

/-- What loading registers leaves in each: the byte at I + r in those listed, else what was there (R176). -/
theorem State.loadRegs_reg (s : State) (ks : List Nat) (hks : ∀ k ∈ ks, k < 16) (r : Reg) :
    (s.loadRegs ks).reg r = if r.val ∈ ks then s.mem.read (s.i.toNat + r.val) else s.reg r := by
  induction ks generalizing s with
  | nil => rfl
  | cons k ks ih =>
    rw [State.loadRegs, ih _ fun j hj => hks j (by simp [hj])]
    have hk : (Fin.ofNat 16 k).val = k := Nat.mod_eq_of_lt (hks k (by simp))
    simp only [State.setReg_mem, State.setReg_i, State.setReg_reg, List.mem_cons]
    by_cases hr : r.val ∈ ks
    · simp [hr]
    · by_cases he : r.val = k
      · have : r = Fin.ofNat 16 k := Fin.ext (he.trans hk.symm)
        rw [if_neg hr, if_pos this, if_pos (.inl he), he]
      · have : r ≠ Fin.ofNat 16 k := fun e => he (by rw [e, hk])
        rw [if_neg hr, if_neg this, if_neg (by simp [hr, he])]

end Sys2Proof.Machine
end

