-- ==== Sys2Proof/Laws/PerInstr.lean ====
section
/-! SUPPORT. Laws/PerInstr.lean: one lemma per instruction, about the instruction as syntax: its word is a legal opcode,
accepted by a row of spec/opcode_table.json (30_encoding.md R75, R78). -/

namespace Sys2Proof.Laws

/-- The instruction's word is some row's of the opcode table. -/
def EncodesToItsRow.Statement (i : Instr) : Prop := wellFormedWord (encode i) = true

/-- A word that a row of the table accepts is well formed. -/
theorem wellFormed_of_row {w : Word} (r : OpcodeRow) (hr : r ∈ OpcodeRow.table) (h : w &&& r.mask = r.pattern) :
    wellFormedWord w = true :=
  List.any_eq_true.mpr ⟨r, hr, by simp [OpcodeRow.accepts, h]⟩

/-- ADDR words: the mask keeps the family. -/
theorem wordAddr_and_mask (f : BitVec 4) (nnn : Addr) : wordAddr f nnn &&& 0xF000 = wordAddr f 0 := by
  have h : (0xF000 : Word) = (0xF#4 ++ 0x000#12 : BitVec 16) := rfl
  have hf : f &&& 0xF#4 = f := BitVec.and_allOnes
  unfold wordAddr
  rw [h, BitVec.and_append, hf, BitVec.and_zero]
  rfl

/-- REG_IMM words: the mask keeps the family. -/
theorem wordRegImm_and_mask (f : BitVec 4) (x : Reg) (kk : Byte) :
    wordRegImm f x kk &&& 0xF000 = wordRegImm f 0 0 := by
  have h : (0xF000 : Word) = (0xF#4 ++ 0x0#4 ++ 0x00#8 : BitVec 16) := rfl
  have hf : f &&& 0xF#4 = f := BitVec.and_allOnes
  unfold wordRegImm
  rw [h, BitVec.and_append, BitVec.and_append, hf, BitVec.and_zero, BitVec.and_zero]
  rfl

/-- REG_SEL words: the mask keeps the family and the selector. -/
theorem wordRegImm_and_select (f : BitVec 4) (x : Reg) (kk : Byte) :
    wordRegImm f x kk &&& 0xF0FF = wordRegImm f 0 kk := by
  have h : (0xF0FF : Word) = (0xF#4 ++ 0x0#4 ++ 0xFF#8 : BitVec 16) := rfl
  have hf : f &&& 0xF#4 = f := BitVec.and_allOnes
  have hk : kk &&& 0xFF#8 = kk := BitVec.and_allOnes
  unfold wordRegImm
  rw [h, BitVec.and_append, BitVec.and_append, hf, hk, BitVec.and_zero]
  rfl

/-- DRAW words: the mask keeps the family. -/
theorem wordRegReg_and_mask (f : BitVec 4) (x y : Reg) (n : BitVec 4) :
    wordRegReg f x y n &&& 0xF000 = wordRegReg f 0 0 0 := by
  have h : (0xF000 : Word) = (0xF#4 ++ 0x0#4 ++ 0x0#4 ++ 0x0#4 : BitVec 16) := rfl
  have hf : f &&& 0xF#4 = f := BitVec.and_allOnes
  unfold wordRegReg
  rw [h, BitVec.and_append, BitVec.and_append, BitVec.and_append, hf, BitVec.and_zero, BitVec.and_zero,
    BitVec.and_zero]
  rfl

/-- REG_REG and ALU words: the mask keeps the family and the low nibble. -/
theorem wordRegReg_and_select (f : BitVec 4) (x y : Reg) (n : BitVec 4) :
    wordRegReg f x y n &&& 0xF00F = wordRegReg f 0 0 n := by
  have h : (0xF00F : Word) = (0xF#4 ++ 0x0#4 ++ 0x0#4 ++ 0xF#4 : BitVec 16) := rfl
  have hf : f &&& 0xF#4 = f := BitVec.and_allOnes
  have hn : n &&& 0xF#4 = n := BitVec.and_allOnes
  unfold wordRegReg
  rw [h, BitVec.and_append, BitVec.and_append, BitVec.and_append, hf, hn, BitVec.and_zero, BitVec.and_zero]
  rfl

theorem EncodesToItsRow.clearDisplay : EncodesToItsRow.Statement (.clearDisplay) :=
  wellFormed_of_row ⟨0xFFFF, 0x00E0⟩ (by decide) (by decide)

theorem EncodesToItsRow.ret : EncodesToItsRow.Statement (.ret) :=
  wellFormed_of_row ⟨0xFFFF, 0x00EE⟩ (by decide) (by decide)

theorem EncodesToItsRow.jump (nnn : Addr) : EncodesToItsRow.Statement (.jump nnn) :=
  wellFormed_of_row ⟨0xF000, 0x1000⟩ (by decide) (wordAddr_and_mask _ _)

theorem EncodesToItsRow.call (nnn : Addr) : EncodesToItsRow.Statement (.call nnn) :=
  wellFormed_of_row ⟨0xF000, 0x2000⟩ (by decide) (wordAddr_and_mask _ _)

theorem EncodesToItsRow.skipEqImm (x : Reg) (kk : Byte) : EncodesToItsRow.Statement (.skipEqImm x kk) :=
  wellFormed_of_row ⟨0xF000, 0x3000⟩ (by decide) (wordRegImm_and_mask _ _ _)

theorem EncodesToItsRow.skipNeImm (x : Reg) (kk : Byte) : EncodesToItsRow.Statement (.skipNeImm x kk) :=
  wellFormed_of_row ⟨0xF000, 0x4000⟩ (by decide) (wordRegImm_and_mask _ _ _)

theorem EncodesToItsRow.skipEqReg (x y : Reg) : EncodesToItsRow.Statement (.skipEqReg x y) :=
  wellFormed_of_row ⟨0xF00F, 0x5000⟩ (by decide) (wordRegReg_and_select _ _ _ _)

theorem EncodesToItsRow.setImm (x : Reg) (kk : Byte) : EncodesToItsRow.Statement (.setImm x kk) :=
  wellFormed_of_row ⟨0xF000, 0x6000⟩ (by decide) (wordRegImm_and_mask _ _ _)

theorem EncodesToItsRow.addImm (x : Reg) (kk : Byte) : EncodesToItsRow.Statement (.addImm x kk) :=
  wellFormed_of_row ⟨0xF000, 0x7000⟩ (by decide) (wordRegImm_and_mask _ _ _)

theorem EncodesToItsRow.assign (x y : Reg) : EncodesToItsRow.Statement (.assign x y) :=
  wellFormed_of_row ⟨0xF00F, 0x8000⟩ (by decide) (wordRegReg_and_select _ _ _ _)

theorem EncodesToItsRow.or (x y : Reg) : EncodesToItsRow.Statement (.or x y) :=
  wellFormed_of_row ⟨0xF00F, 0x8001⟩ (by decide) (wordRegReg_and_select _ _ _ _)

theorem EncodesToItsRow.and (x y : Reg) : EncodesToItsRow.Statement (.and x y) :=
  wellFormed_of_row ⟨0xF00F, 0x8002⟩ (by decide) (wordRegReg_and_select _ _ _ _)

theorem EncodesToItsRow.xor (x y : Reg) : EncodesToItsRow.Statement (.xor x y) :=
  wellFormed_of_row ⟨0xF00F, 0x8003⟩ (by decide) (wordRegReg_and_select _ _ _ _)

theorem EncodesToItsRow.add (x y : Reg) : EncodesToItsRow.Statement (.add x y) :=
  wellFormed_of_row ⟨0xF00F, 0x8004⟩ (by decide) (wordRegReg_and_select _ _ _ _)

theorem EncodesToItsRow.sub (x y : Reg) : EncodesToItsRow.Statement (.sub x y) :=
  wellFormed_of_row ⟨0xF00F, 0x8005⟩ (by decide) (wordRegReg_and_select _ _ _ _)

theorem EncodesToItsRow.shiftRight (x y : Reg) : EncodesToItsRow.Statement (.shiftRight x y) :=
  wellFormed_of_row ⟨0xF00F, 0x8006⟩ (by decide) (wordRegReg_and_select _ _ _ _)

theorem EncodesToItsRow.reverseSub (x y : Reg) : EncodesToItsRow.Statement (.reverseSub x y) :=
  wellFormed_of_row ⟨0xF00F, 0x8007⟩ (by decide) (wordRegReg_and_select _ _ _ _)

theorem EncodesToItsRow.shiftLeft (x y : Reg) : EncodesToItsRow.Statement (.shiftLeft x y) :=
  wellFormed_of_row ⟨0xF00F, 0x800E⟩ (by decide) (wordRegReg_and_select _ _ _ _)

theorem EncodesToItsRow.skipNeReg (x y : Reg) : EncodesToItsRow.Statement (.skipNeReg x y) :=
  wellFormed_of_row ⟨0xF00F, 0x9000⟩ (by decide) (wordRegReg_and_select _ _ _ _)

theorem EncodesToItsRow.setIndex (nnn : Addr) : EncodesToItsRow.Statement (.setIndex nnn) :=
  wellFormed_of_row ⟨0xF000, 0xA000⟩ (by decide) (wordAddr_and_mask _ _)

theorem EncodesToItsRow.jumpOffset (nnn : Addr) : EncodesToItsRow.Statement (.jumpOffset nnn) :=
  wellFormed_of_row ⟨0xF000, 0xB000⟩ (by decide) (wordAddr_and_mask _ _)

theorem EncodesToItsRow.randomAnd (x : Reg) (kk : Byte) : EncodesToItsRow.Statement (.randomAnd x kk) :=
  wellFormed_of_row ⟨0xF000, 0xC000⟩ (by decide) (wordRegImm_and_mask _ _ _)

theorem EncodesToItsRow.draw (x y : Reg) (n : Fin 16) : EncodesToItsRow.Statement (.draw x y n) :=
  wellFormed_of_row ⟨0xF000, 0xD000⟩ (by decide) (wordRegReg_and_mask _ _ _ _)

theorem EncodesToItsRow.skipKeyPressed (x : Reg) : EncodesToItsRow.Statement (.skipKeyPressed x) :=
  wellFormed_of_row ⟨0xF0FF, 0xE09E⟩ (by decide) (wordRegImm_and_select _ _ _)

theorem EncodesToItsRow.skipKeyNotPressed (x : Reg) : EncodesToItsRow.Statement (.skipKeyNotPressed x) :=
  wellFormed_of_row ⟨0xF0FF, 0xE0A1⟩ (by decide) (wordRegImm_and_select _ _ _)

theorem EncodesToItsRow.getDelay (x : Reg) : EncodesToItsRow.Statement (.getDelay x) :=
  wellFormed_of_row ⟨0xF0FF, 0xF007⟩ (by decide) (wordRegImm_and_select _ _ _)

theorem EncodesToItsRow.waitKey (x : Reg) : EncodesToItsRow.Statement (.waitKey x) :=
  wellFormed_of_row ⟨0xF0FF, 0xF00A⟩ (by decide) (wordRegImm_and_select _ _ _)

theorem EncodesToItsRow.setDelay (x : Reg) : EncodesToItsRow.Statement (.setDelay x) :=
  wellFormed_of_row ⟨0xF0FF, 0xF015⟩ (by decide) (wordRegImm_and_select _ _ _)

theorem EncodesToItsRow.setSound (x : Reg) : EncodesToItsRow.Statement (.setSound x) :=
  wellFormed_of_row ⟨0xF0FF, 0xF018⟩ (by decide) (wordRegImm_and_select _ _ _)

theorem EncodesToItsRow.addIndex (x : Reg) : EncodesToItsRow.Statement (.addIndex x) :=
  wellFormed_of_row ⟨0xF0FF, 0xF01E⟩ (by decide) (wordRegImm_and_select _ _ _)

theorem EncodesToItsRow.setIndexGlyph (x : Reg) : EncodesToItsRow.Statement (.setIndexGlyph x) :=
  wellFormed_of_row ⟨0xF0FF, 0xF029⟩ (by decide) (wordRegImm_and_select _ _ _)

theorem EncodesToItsRow.bcdStore (x : Reg) : EncodesToItsRow.Statement (.bcdStore x) :=
  wellFormed_of_row ⟨0xF0FF, 0xF033⟩ (by decide) (wordRegImm_and_select _ _ _)

theorem EncodesToItsRow.registerDump (x : Reg) : EncodesToItsRow.Statement (.registerDump x) :=
  wellFormed_of_row ⟨0xF0FF, 0xF055⟩ (by decide) (wordRegImm_and_select _ _ _)

theorem EncodesToItsRow.registerLoad (x : Reg) : EncodesToItsRow.Statement (.registerLoad x) :=
  wellFormed_of_row ⟨0xF0FF, 0xF065⟩ (by decide) (wordRegImm_and_select _ _ _)

end Sys2Proof.Laws
end

