-- ==== Sys2Proof/Tests/Slice0.lean ====
section
/-! SUPPORT. Tests/Slice0.lean: tests, each expected result from 95_test_vectors.md (S<n>: its part 1) or by hand from
the rule named; and a state that meets the hypotheses of each statement of Certificates/Slice0/Obligations.lean. -/

namespace Sys2Proof.Tests

open Sys2Proof Sys2Proof.Machine

/-! ### Small states and projections -/

/-- The state after an outcome, if it is a next state, seen through f. -/
def seen {α : Type} (f : State → α) : Result → Option α
  | .next t => some (f t)
  | _ => none

/-- The fault of an outcome, if it is one. -/
def faultOf : Result → Option Fault
  | .fault f => some f
  | _ => none

/-- Reset with some registers set. -/
def withRegs (rs : List (Reg × Byte)) : State := rs.foldl (fun s r => s.setReg r.1 r.2) State.reset

/-- V1 = a, V2 = b, VF = 0xAA: the start of the vectors of 95_test_vectors.md 2.4. -/
def alu (a b : Byte) : State := withRegs [(1, a), (2, b), (VF, 0xAA)]

/-- V1 and VF after an instruction. -/
def v1vf (i : Instr) (s : State) : Option (Byte × Byte) := seen (fun t => (t.reg 1, t.reg VF)) (exec i s)

/-- Reset with PC = pc and two bytes there. -/
def placed (pc : Word) (high low : Byte) : State :=
  { State.reset with pc := pc, mem := Memory.writeBytes [] pc.toNat [high, low] }

/-- Reset with n entries of the stack in use, slot j holding 0x200 + 2 * j. -/
def stacked (n : Fin 17) : State :=
  { State.reset with sp := n, stack := Vector.ofFn fun j => BitVec.ofNat 16 (0x200 + 2 * j.val) }

/-- A keypad on which the keys of ks are pressed. -/
def keysDown (ks : List (Fin 16)) : Keypad := Vector.ofFn fun k => ks.contains k

/-- Reset with I = i, bytes at I, and registers. -/
def indexed (i : Word) (bytes : List Byte) (rs : List (Reg × Byte)) : State :=
  { withRegs rs with i := i, mem := Memory.writeBytes [] i.toNat bytes }

/-! ### Well-formed words (R77): one ill-formed word for each check, which the check refuses -/

theorem test_illformed_fixed : illegalFixed 0x0123 = true ∧ wellFormedWord 0x0123 = false := by decide
theorem test_illformed_regreg_five : illegalRegReg 0x5121 = true ∧ wellFormedWord 0x5121 = false := by decide
theorem test_illformed_regreg_nine : illegalRegReg 0x9ABF = true ∧ wellFormedWord 0x9ABF = false := by decide
theorem test_illformed_alu : illegalAlu 0x8AB8 = true ∧ wellFormedWord 0x8AB8 = false := by decide
theorem test_illformed_keypad : illegalKeypad 0xE19F = true ∧ wellFormedWord 0xE19F = false := by decide
theorem test_illformed_select : illegalSelect 0xF166 = true ∧ wellFormedWord 0xF166 = false := by decide
theorem test_wellformed_words :
    wellFormedWord 0x00E0 = true ∧ wellFormedWord 0x8ABE = true ∧ wellFormedWord 0xDFFF = true ∧
      illegalWord 0x00E0 = false ∧ illegalWord 0x8ABE = false ∧ illegalWord 0xDFFF = false := by decide

/-! ### Decoding: every constructor's word, written out from R72 and R74 (95_test_vectors.md 2.1) -/

theorem test_decode_control :
    decode 0b0000000011100000 = .ok .clearDisplay ∧ decode 0b0000000011101110 = .ok .ret ∧
      decode 0b0001111110100011 = .ok (.jump 0xFA3) ∧ decode 0b0010111111111111 = .ok (.call 0xFFF) ∧
      decode 0b1011111111111111 = .ok (.jumpOffset 0xFFF) := by decide
theorem test_decode_skips :
    decode 0b0011111100000000 = .ok (.skipEqImm 0xF 0x00) ∧ decode 0b0100101001111110 = .ok (.skipNeImm 0xA 0x7E) ∧
      decode 0b0101101010110000 = .ok (.skipEqReg 0xA 0xB) ∧
      decode 0b1001101010110000 = .ok (.skipNeReg 0xA 0xB) := by decide
theorem test_decode_immediate :
    decode 0b0110000000000000 = .ok (.setImm 0 0) ∧ decode 0b0111111111111111 = .ok (.addImm 0xF 0xFF) ∧
      decode 0b1100000000000000 = .ok (.randomAnd 0 0) := by decide
theorem test_decode_alu :
    decode 0b1000101010110000 = .ok (.assign 0xA 0xB) ∧ decode 0b1000101010110001 = .ok (.or 0xA 0xB) ∧
      decode 0b1000101010110010 = .ok (.and 0xA 0xB) ∧ decode 0b1000101010110011 = .ok (.xor 0xA 0xB) ∧
      decode 0b1000101010110100 = .ok (.add 0xA 0xB) ∧ decode 0b1000101010110101 = .ok (.sub 0xA 0xB) := by decide
theorem test_decode_alu_shifts :
    decode 0b1000101111000110 = .ok (.shiftRight 0xB 0xC) ∧ decode 0b1000101010110111 = .ok (.reverseSub 0xA 0xB) ∧
      decode 0b1000101010111110 = .ok (.shiftLeft 0xA 0xB) := by decide
theorem test_decode_index :
    decode 0b1010000100100011 = .ok (.setIndex 0x123) ∧ decode 0b1111000100011110 = .ok (.addIndex 1) ∧
      decode 0b1111000100101001 = .ok (.setIndexGlyph 1) := by decide
theorem test_decode_memory :
    decode 0b1111000100110011 = .ok (.bcdStore 1) ∧ decode 0b1111000101010101 = .ok (.registerDump 1) ∧
      decode 0b1111111101100101 = .ok (.registerLoad 0xF) := by decide
theorem test_decode_timers :
    decode 0b1111000100000111 = .ok (.getDelay 1) ∧ decode 0b1111000100010101 = .ok (.setDelay 1) ∧
      decode 0b1111000100011000 = .ok (.setSound 1) := by decide
theorem test_decode_display_keypad :
    decode 0b1101000100100000 = .ok (.draw 1 2 0) ∧ decode 0b1101111111111111 = .ok (.draw 0xF 0xF 15) ∧
      decode 0b1110000110011110 = .ok (.skipKeyPressed 1) ∧ decode 0b1110000110100001 = .ok (.skipKeyNotPressed 1) ∧
      decode 0b1111000100001010 = .ok (.waitKey 1) := by decide
theorem test_decode_illegal :
    decode 0x0000 = .error (.illegal 0x0000) ∧ decode 0x01E0 = .error (.illegal 0x01E0) ∧
      decode 0x5AB1 = .error (.illegal 0x5AB1) ∧ decode 0x8ABD = .error (.illegal 0x8ABD) ∧
      decode 0xE1A2 = .error (.illegal 0xE1A2) ∧ decode 0xF108 = .error (.illegal 0xF108) ∧
      decode 0xFFFF = .error (.illegal 0xFFFF) := by decide
theorem test_encode_words :
    encode .ret = 0x00EE ∧ encode (.jump 0xFA3) = 0x1FA3 ∧ encode (.skipEqImm 0xF 0) = 0x3F00 ∧
      encode (.shiftRight 0xB 0xC) = 0x8BC6 ∧ encode (.draw 0xF 0xF 15) = 0xDFFF ∧
      encode (.registerLoad 2) = 0xF265 := by decide

/-- High byte first, the rest returned; one byte alone is no instruction (R55, R70). -/
theorem test_decode_bytes :
    decodeBytes [0x1F, 0xA3, 0x77] = .ok (.jump 0xFA3, [0x77]) ∧ decodeBytes [0x1F] = .error .truncated := by decide

theorem test_decode_table_word :
    decodeTableWord 16 0x8BC6 = some (.shiftRight 0xB 0xC) ∧ decodeTableWord 16 0x5121 = none := by decide

/-! ### The cycle -/

/-- A placed word is the first instruction after reset: SetImm(0, 7). -/
theorem test_step_placed_word :
    seen (fun t => (t.reg 0, t.pc)) (step (State.reset.withFetchWord 16 0x6007)) = some (0x07, 0x202) := by decide

/-- 2.2: at the odd PC 0x201, bytes 60 07 are SetImm(0, 7). -/
theorem test_step_odd_pc :
    seen (fun t => (t.reg 0, t.pc)) (step (placed 0x201 0x60 0x07)) = some (0x07, 0x203) := by decide

/-- 2.2: at 0xFFE, PC becomes 0x1000, where the next step faults. -/
theorem test_step_top_of_memory :
    seen (fun t => (t.reg 0, t.pc, faultOf (step t))) (step (placed 0xFFE 0x60 0x01)) =
      some (0x01, 0x1000, some (.boundsFetch 0x1000)) := by decide

/-- 2.2 and P6: an illegal word; and the word 0x0000 that reset alone fetches (log 1). -/
theorem test_step_illegal_word :
    faultOf (step (placed 0x200 0x51 0x21)) = some (.decodeError 0x5121) ∧
      faultOf (step State.reset) = some (.decodeError 0x0000) := by decide

/-- P4: ticks and keys scheduled before a suspended WaitKey land first; the lowest key, 9, is stored. -/
theorem test_step_schedule :
    seen (fun t => (t.reg 2, t.dt, t.schedule))
      (step { placed 0x200 0xF2 0x0A with dt := 2, schedule := [[.tick, .keys (keysDown [9, 0xC])]] }) =
      some (0x09, 0x01, []) := by decide

/-- P5: Call at SP = 16 records the fault; the core then answers it again (R229). -/
theorem test_fault_recorded :
    ({ placed 0x200 0x22 0x00 with sp := 16 } : State).callStep.1 = .fault (.stackOverflow 0x200) ∧
      ({ placed 0x200 0x22 0x00 with sp := 16 } : State).callStep.2.callStep.1 = .fault (.stackOverflow 0x200) := by
  decide

/-! ### Control transfer and skips (2.3) -/

theorem test_ret_pops : seen (fun t => (t.pc, t.sp, t.stack[1])) (exec .ret (stacked 2)) = some (0x204, 1, 0x202) := by
  decide
theorem test_ret_underflow : faultOf (exec .ret (stacked 0)) = some (.stackUnderflow 0x200) := by decide
theorem test_jump_top : seen (fun t => (t.pc, faultOf (cycle t))) (exec (.jump 0xFFF) State.reset) =
    some (0xFFF, some (.boundsFetch 0xFFF)) := by decide
theorem test_call_last_slot :
    seen (fun t => (t.stack[15], t.sp, t.pc)) (exec (.call 0x300) { stacked 15 with pc := 0x204 }) =
      some (0x204, 16, 0x300) := by decide
theorem test_call_overflow : faultOf (exec (.call 0x400) (stacked 16)) = some (.stackOverflow 0x200) := by decide
theorem test_jump_offset_exact :
    seen State.pc (exec (.jumpOffset 0xFFF) (withRegs [(0, 0xFF)])) = some 0x10FE := by decide
theorem test_skip_eq_imm :
    seen State.pc (exec (.skipEqImm 5 0x10) (withRegs [(5, 0x10)])) = some 0x204 ∧
      seen State.pc (exec (.skipEqImm 5 0x11) (withRegs [(5, 0x10)])) = some 0x202 := by decide
theorem test_skip_ne_imm :
    seen State.pc (exec (.skipNeImm 5 0x11) (withRegs [(5, 0x10)])) = some 0x204 ∧
      seen State.pc (exec (.skipNeImm 5 0x10) (withRegs [(5, 0x10)])) = some 0x202 := by decide
theorem test_skip_eq_reg :
    seen State.pc (exec (.skipEqReg 5 6) State.reset) = some 0x204 ∧
      seen State.pc (exec (.skipEqReg 5 6) (withRegs [(6, 1)])) = some 0x202 := by decide
theorem test_skip_ne_reg :
    seen State.pc (exec (.skipNeReg 5 6) (withRegs [(5, 1)])) = some 0x204 ∧
      seen State.pc (exec (.skipNeReg 5 5) State.reset) = some 0x202 := by decide

/-! ### Register loads and the ALU (2.4) -/

theorem test_set_imm : v1vf (.setImm 1 0x42) (alu 0 0) = some (0x42, 0xAA) := by decide
theorem test_add_imm_wraps : v1vf (.addImm 1 0x02) (alu 0xFF 0) = some (0x01, 0xAA) := by decide
theorem test_assign : v1vf (.assign 1 2) (alu 0x00 0x99) = some (0x99, 0xAA) := by decide
theorem test_or : v1vf (.or 1 2) (alu 0x0F 0xF0) = some (0xFF, 0xAA) := by decide
theorem test_and : v1vf (.and 1 2) (alu 0x3C 0x0F) = some (0x0C, 0xAA) := by decide
theorem test_xor : v1vf (.xor 1 2) (alu 0xFF 0x0F) = some (0xF0, 0xAA) := by decide
/-- S5; and the carry over the sum when x = 15. -/
theorem test_add_carry :
    v1vf (.add 1 2) (alu 0xFF 0x01) = some (0x00, 1) ∧
      seen (fun t => t.reg VF) (exec (.add 0xF 2) (withRegs [(VF, 0xFF), (2, 1)])) = some 1 := by decide
/-- 2.4: the sum 0x80 does not carry; VF as the source. -/
theorem test_add_no_carry :
    v1vf (.add 1 2) (alu 0x7F 0x01) = some (0x80, 0) ∧
      v1vf (.add 1 0xF) (withRegs [(1, 1), (VF, 0xFF)]) = some (0x00, 1) := by decide
/-- S7, S8. -/
theorem test_sub :
    v1vf (.sub 1 2) (alu 0x01 0x02) = some (0xFF, 0) ∧ v1vf (.sub 1 2) (alu 0x05 0x02) = some (0x03, 1) := by decide
theorem test_sub_equal :
    v1vf (.sub 1 2) (alu 0x42 0x42) = some (0x00, 1) ∧
      seen (fun t => t.reg VF) (exec (.sub 0xF 2) (withRegs [(VF, 5), (2, 2)])) = some 1 := by decide
theorem test_reverse_sub :
    v1vf (.reverseSub 1 2) (alu 0x01 0x03) = some (0x02, 1) ∧
      v1vf (.reverseSub 1 2) (alu 0x03 0x01) = some (0xFE, 0) := by decide
theorem test_shift_right :
    v1vf (.shiftRight 1 2) (alu 0xFF 0) = some (0x7F, 1) ∧ v1vf (.shiftRight 1 2) (alu 0x02 0) = some (0x01, 0) := by
  decide
theorem test_shift_right_vy :
    v1vf (.shiftRight 1 2) { alu 0x00 0x03 with shiftUsesVy := true } = some (0x01, 1) ∧
      seen (fun t => t.reg VF) (exec (.shiftRight 0xF 0) (withRegs [(VF, 3)])) = some 1 := by decide
theorem test_shift_left :
    v1vf (.shiftLeft 1 2) (alu 0xFF 0) = some (0xFE, 1) ∧ v1vf (.shiftLeft 1 2) (alu 0x40 0) = some (0x80, 0) := by
  decide
theorem test_shift_left_vy : v1vf (.shiftLeft 1 2) { alu 0x00 0x81 with shiftUsesVy := true } = some (0x02, 1) := by
  decide
/-- 2.4: kk = 0 gives 0 whatever byte is drawn; one byte is counted (R152). -/
theorem test_random_and :
    seen (fun t => (t.draws, t.reg VF, t.pc)) (exec (.randomAnd 1 0x00) (alu 7 0)) = some (1, 0xAA, 0x202) := by
  decide
theorem test_random_and_zero_mask : seen (fun t => t.reg 1) (exec (.randomAnd 1 0x00) (alu 7 0)) = some 0x00 := by
  simp [seen, execRandomAnd, exec]

/-! ### The index register and memory (2.5) -/

theorem test_set_index : seen State.i (exec (.setIndex 0xFFF) State.reset) = some 0x0FFF := by decide
theorem test_add_index :
    seen (fun t => (t.i, t.reg VF)) (exec (.addIndex 0) (indexed 0x0FFF [] [(0, 1), (VF, 0xAA)])) =
      some (0x1000, 0xAA) := by decide
theorem test_add_index_wraps :
    seen State.i (exec (.addIndex 0) (indexed 0xFFFF [] [(0, 2)])) = some 0x0001 := by decide
theorem test_set_index_glyph :
    seen State.i (exec (.setIndexGlyph 0) (withRegs [(0, 0x0F)])) = some 0x09B ∧
      seen State.i (exec (.setIndexGlyph 0) (withRegs [(0, 0xFF)])) = some 0x54B := by decide
theorem test_bcd_store :
    seen (fun t => (t.mem.read 0xFFD, t.mem.read 0xFFE, t.mem.read 0xFFF))
      (exec (.bcdStore 0) (indexed 0xFFD [] [(0, 123)])) = some (1, 2, 3) := by decide
theorem test_bcd_store_out_of_range :
    faultOf (exec (.bcdStore 0) (indexed 0xFFE [] [(0, 42)])) = some (.boundsIndex 0x1000) := by decide
theorem test_register_dump :
    seen (fun t => (t.mem.read 0xFFD, t.mem.read 0xFFE, t.mem.read 0xFFF, t.i))
      (exec (.registerDump 2) (indexed 0xFFD [] [(0, 7), (1, 8), (2, 9), (3, 10)])) =
      some (7, 8, 9, 0xFFD) := by decide
theorem test_register_dump_out_of_range :
    faultOf (exec (.registerDump 0xF) (indexed 0xFF1 [] [])) = some (.boundsIndex 0x1000) := by decide
theorem test_register_load_glyph :
    seen (fun t => (t.reg 0, t.reg 1, t.reg 4, t.reg 5, t.i)) (exec (.registerLoad 4) (indexed 0x050 [] [(5, 9)])) =
      some (0xF0, 0x90, 0xF0, 9, 0x050) := by decide
theorem test_register_load_out_of_range :
    faultOf (exec (.registerLoad 0) (indexed 0x2000 [] [])) = some (.boundsIndex 0x2000) := by decide

/-! ### Timers (2.6) -/

theorem test_get_delay : seen (fun t => t.reg 4) (exec (.getDelay 4) { State.reset with dt := 0x3C }) = some 0x3C := by
  decide
theorem test_set_delay : seen (fun t => (t.dt, t.st)) (exec (.setDelay 3) (withRegs [(3, 0x3C)])) = some (0x3C, 0) := by
  decide
theorem test_set_sound : seen (fun t => (t.dt, t.st)) (exec (.setSound 3) (withRegs [(3, 5)])) = some (0, 5) := by decide
/-- S13. -/
theorem test_tick :
    ({ State.reset with dt := 1, st := 0xFF } : State).tick.dt = 0 ∧
      ({ State.reset with dt := 1, st := 0xFF } : State).tick.st = 0xFE ∧ State.reset.tick.dt = 0 := by decide

/-! ### Framebuffer and keypad (2.7) -/

/-- All pixels on. -/
def lit : State := { withRegs [(VF, 0xAA)] with fb := Vector.replicate 32 (Vector.replicate 64 true) }

theorem test_clear_display :
    seen (fun t => (t.fb.get 0 0, t.fb.get 63 31, t.reg VF)) (exec .clearDisplay lit) = some (false, false, 0xAA) := by
  decide
/-- 2.7: column 7 of the row at x = 63 wraps to pixel (6, 0); row 1 at y = 31 wraps to line 0. -/
theorem test_draw_wraps :
    seen (fun t => (t.fb.get 6 31, t.fb.get 63 0, t.fb.get 63 31, t.reg VF))
      (exec (.draw 0 1 2) (indexed 0x300 [0x01, 0x80] [(0, 63), (1, 31), (VF, 0xAA)])) =
      some (true, true, false, 0) := by decide
/-- 2.7: VF as coordinate is read before it is cleared; a pixel that was on goes off with VF = 1. -/
theorem test_draw_collides :
    seen (fun t => (t.fb.get 5 0, t.fb.get 6 0, t.reg VF))
      (exec (.draw 0xF 1 1) { lit with v := (withRegs [(VF, 5)]).v, i := 0x300, mem := [(0x300, 0x80)] }) =
      some (false, true, 1) := by decide
theorem test_skip_key_pressed :
    seen State.pc (exec (.skipKeyPressed 3) { withRegs [(3, 5)] with key := keysDown [5] }) = some 0x204 ∧
      faultOf (exec (.skipKeyPressed 3) (withRegs [(3, 16)])) = some (.boundsKeypad 16) := by decide
theorem test_skip_key_not_pressed :
    seen State.pc (exec (.skipKeyNotPressed 3) (withRegs [(3, 5)])) = some 0x204 ∧
      faultOf (exec (.skipKeyNotPressed 3) (withRegs [(3, 0xFF)])) = some (.boundsKeypad 0xFF) := by decide
theorem test_wait_key_lowest :
    seen (fun t => (t.reg 0xE, t.pc)) (exec (.waitKey 0xE) { State.reset with key := keysDown [5, 3] }) =
      some (3, 0x202) := by decide
theorem test_wait_key_suspends :
    seen (fun t => (t.reg 2, t.pc)) (exec (.waitKey 2) (withRegs [(2, 7)])) = some (7, 0x200) := by decide

/-! ### Reset and loading -/

set_option maxRecDepth 8000 in
/-- State.reset is resetWith at the spec's default parameters (R8). -/
theorem test_reset_is_default :
    State.resetWith fontTable State.reset.fb shiftUsesVyDefault = State.reset := rfl

/-- The table has 80 bytes (R52); glyph 0 at 0x50, the last byte of glyph F at 0x9F (R53). -/
theorem test_font_place :
    fontTable.length = 80 ∧ resetByte 0x4F = 0 ∧ resetByte 0x50 = 0xF0 ∧ resetByte 0x9F = 0x80 ∧ resetByte 0xA0 = 0 := by
  decide

/-- P1's first bytes, loaded, are at 0x200 (R252). -/
theorem test_load_program :
    seen (fun t => (t.mem.read 0x200, t.mem.read 0x201, t.mem.read 0x202))
      (State.reset.loadProgram (some [0x60, 0x00, 0x61])) = some (0x60, 0x00, 0x61) := by decide

/-! ### Witnesses: for each statement with hypotheses, a state and operands that meet them, clause by clause -/

theorem test_meets_EncodeOfDecodeIsTheWord : ∃ i, decode 0x8BC6 = .ok i := ⟨_, rfl⟩

theorem test_meets_DecodeRejectsExactlyTheIllegalWords :
    illegalWord 0x5121 = true ∧ illegalWord 0x8BC6 = false := by decide

theorem test_meets_SourceDecodingExamples :
    decode 0x8BC6 = .ok (.shiftRight 0xB 0xC) ∧ decode 0x8ABE = .ok (.shiftLeft 0xA 0xB) ∧
      State.reset.shiftUsesVy = false := by decide

/-- At 0x200 with nothing scheduled. -/
theorem test_meets_StepRunsTheDecodedInstruction :
    (placed 0x200 0x60 0x07).fault = none ∧ (placed 0x200 0x60 0x07).pc.toNat ≤ 0xFFE ∧
      (placed 0x200 0x60 0x07).schedule = [] ∧
      decode (wordOfBytes ((placed 0x200 0x60 0x07).mem.read 0x200) ((placed 0x200 0x60 0x07).mem.read 0x201)) =
        .ok (.setImm 0 7) := by decide
theorem test_meets_StepRunsTheDecodedInstruction_top :
    (placed 0xFFE 0x60 0x01).fault = none ∧ (placed 0xFFE 0x60 0x01).pc.toNat ≤ 0xFFE ∧
      decode (wordOfBytes ((placed 0xFFE 0x60 0x01).mem.read 0xFFE) ((placed 0xFFE 0x60 0x01).mem.read 0xFFF)) =
        .ok (.setImm 0 1) := by decide

theorem test_meets_InputsLandBeforeTheInstruction :
    ({ State.reset with schedule := [[.tick, .keys (keysDown [1])], [.tick]] } : State).schedule =
      [.tick, .keys (keysDown [1])] :: [[.tick]] := rfl

theorem test_meets_FetchIsBigEndian :
    (placed 0xFFE 0x12 0x34).pc.toNat ≤ 0xFFE ∧ (placed 0x201 0x12 0x34).pc.toNat ≤ 0xFFE := by decide

theorem test_meets_FetchOutsideMemoryFaults :
    (placed 0xFFF 0 0).fault = none ∧ 0xFFE < (placed 0xFFF 0 0).pc.toNat := by decide

theorem test_meets_IllegalWordFaultsWithTheWord :
    (placed 0xFFE 0x51 0x21).fault = none ∧ (placed 0xFFE 0x51 0x21).pc.toNat ≤ 0xFFE ∧
      illegalWord ((placed 0xFFE 0x51 0x21).mem.fetchWord 0xFFE) = true := by decide

/-- The PC is fetchable at 0xFFE and not at 0xFFF. -/
theorem test_meets_PlacedWordRunsNext :
    decode 0x00EE = .ok .ret ∧ (placed 0xFFE 0 0).pc.toNat ≤ 0xFFE ∧ ¬(placed 0xFFF 0 0).pc.toNat ≤ 0xFFE := by decide

/-- A fault of this step, and one recorded before it. -/
theorem test_meets_FaultIsPreciseAndStopsTheCore :
    (∃ f, cycle State.reset = .fault f) ∧ ∃ f, cycle (placed 0x200 0x60 0x07) ≠ .fault f ∧
      cycle ((placed 0x200 0x60 0x07).recordFault f) = .fault f :=
  ⟨⟨_, rfl⟩, .boundsFetch 0, nofun, rfl⟩

theorem test_meets_InstructionFaultsExactlyWhereListed :
    exec .ret State.reset = .fault (.stackUnderflow 0x200) ∧
      ownFault .ret State.reset = some (.stackUnderflow 0x200) := ⟨rfl, rfl⟩

theorem test_meets_EveryInstructionCompletesUnlessItFaults :
    ownFault (.call 0x300) (stacked 15) = none ∧ ownFault (.draw 0 1 0) (indexed 0x1000 [] []) = none ∧
      ownFault (.registerLoad 0xF) (indexed 0xFF0 [] []) = none ∧
      ownFault (.skipKeyPressed 3) (withRegs [(3, 15)]) = none := by decide

/-- The three kinds of fault, none of them recorded before. -/
theorem test_meets_StepFaultsInPriorityOrder :
    (placed 0xFFF 0 0).fault = none ∧ 0xFFE < (placed 0xFFF 0 0).pc.toNat ∧
      State.reset.fault = none ∧ illegalWord (State.reset.mem.fetchWord 0x200) = true ∧
      (placed 0x200 0x00 0xEE).fault = none ∧
      decode ((placed 0x200 0x00 0xEE).mem.fetchWord 0x200) = .ok .ret ∧
      ownFault .ret (placed 0x200 0x00 0xEE).takeInputs = some (.stackUnderflow 0x200) := by decide

/-- An instruction that advances, WaitKey without a key and with one, a skip that skips, one that does not, a jump. -/
theorem test_meets_DefaultAdvanceIsTwo :
    (∃ t, exec (.setImm 0 7) State.reset = .next t ∧ setsPc (.setImm 0 7) = false) ∧
      (∃ t, exec (.waitKey 2) State.reset = .next t ∧ setsPc (.waitKey 2) = false ∧ State.reset.firstKey = none) ∧
      (∃ t, exec (.skipEqReg 5 5) State.reset = .next t ∧ skipCondition (.skipEqReg 5 5) State.reset = some true) ∧
      (∃ t, exec (.skipKeyPressed 3) (withRegs [(3, 15)]) = .next t ∧
        skipCondition (.skipKeyPressed 3) (withRegs [(3, 15)]) = some false) ∧
      ∃ t, exec (.jump 0xFFF) State.reset = .next t ∧ setsPc (.jump 0xFFF) = true ∧
        skipCondition (.jump 0xFFF) State.reset = none :=
  ⟨⟨_, rfl, rfl⟩, ⟨_, rfl, rfl, by decide⟩, ⟨_, rfl, by decide⟩, ⟨_, rfl, by decide⟩, _, rfl, rfl, rfl⟩
theorem test_meets_DefaultAdvanceIsTwo_key : ({ State.reset with key := keysDown [5] } : State).firstKey ≠ none := by
  decide

/-- Suspended, and with a key pressed not. -/
theorem test_meets_SuspendedExactlyAtAWaitKeyWithoutKeys :
    (placed 0x200 0xF2 0x0A).callStep.1 = .suspended ∧
      ({ placed 0x200 0xF2 0x0A with key := keysDown [15] } : State).callStep.1 = .ok := by decide

theorem test_meets_ReturnResumesAfterTheCall :
    (0 : Fin 16).val + 1 = (stacked 1).sp.val ∧ (15 : Fin 16).val + 1 = (stacked 16).sp.val ∧
      (stacked 0).sp.val = 0 := by decide

theorem test_meets_JumpSetsPcToTheAddress :
    (0xFFF : Addr) = 0xFFF ∧ State.reset.fault = none ∧ (0x200 : Addr).toNat = State.reset.pc.toNat := by decide

theorem test_meets_CallPushesItsOwnAddress :
    (0 : Fin 16).val = (stacked 0).sp.val ∧ (15 : Fin 16).val = (stacked 15).sp.val ∧ (14 : Fin 16) ≠ 15 ∧
      (stacked 16).sp.val = 16 := by decide

theorem test_meets_CallThenReturnResumesAfterTheCall : (stacked 0).sp.val < 16 ∧ (stacked 15).sp.val < 16 := by decide

/-- Fetchable at 0xFFE, with key index 15; the instructions themselves are tested above. -/
theorem test_meets_SkipsFollowTheSkipRule :
    ({ withRegs [(3, 15)] with pc := 0xFFE } : State).pc.toNat ≤ 0xFFE ∧
      (({ withRegs [(3, 15)] with pc := 0xFFE } : State).reg 3).toNat = (15 : Fin 16).val := by decide

theorem test_meets_KeyIndexAboveFifteenFaults :
    15 < ((withRegs [(3, 16)]).reg 3).toNat ∧ 15 < ((withRegs [(3, 0xFF)]).reg 3).toNat := by decide

/-- The registers of the ALU statements: another than Vx, another than VF, the same one twice. -/
theorem test_meets_alu_registers : (2 : Reg) ≠ 1 ∧ (1 : Reg) ≠ VF ∧ (2 : Reg) ≠ VF ∧ (VF : Reg) = 15 := by decide

theorem test_meets_ShiftsMoveByOneAndKeepTheLostBit :
    0x01 = (if (alu 0x01 0x81).shiftUsesVy = true then (alu 0x01 0x81).reg 2 else (alu 0x01 0x81).reg 1).toNat ∧
      0x81 = (if ({ alu 0x01 0x81 with shiftUsesVy := true } : State).shiftUsesVy = true
        then (alu 0x01 0x81).reg 2 else (alu 0x01 0x81).reg 1).toNat := by decide

theorem test_meets_RandomAndDrawsOneFreeByte : (0x00 : Byte) = 0x00 ∧ (0xFF : Byte) = 0xFF ∧ (2 : Reg) ≠ 1 := by decide

theorem test_meets_BcdStoreWritesThreeDigits : (indexed 0xFFD [] [(0, 42)]).i.toNat + 2 ≤ 0xFFF := by decide

theorem test_meets_RegisterDumpCopiesRegistersToMemory :
    (indexed 0xFF0 [] []).i.toNat + (15 : Reg).val ≤ 0xFFF ∧ (15 : Reg) ≤ 15 ∧ (0 : Reg) ≤ 0 ∧
      (indexed 0xFFF [] []).i.toNat + (0 : Reg).val ≤ 0xFFF := by decide

theorem test_meets_RegisterLoadCopiesMemoryToRegisters :
    (indexed 0xFF0 [] []).i.toNat + (15 : Reg).val ≤ 0xFFF ∧
      (indexed 0xFFF [] []).i.toNat + (0 : Reg).val ≤ 0xFFF ∧ ¬(1 : Reg) ≤ 0 := by decide

/-- S12: in range up to I = 0xFFA for x = 5, out of range from 0xFFB on. -/
theorem test_meets_DumpThenLoadRestoresRegisters :
    (indexed 0xFFA [] []).i.toNat + (5 : Reg).val ≤ 0xFFF ∧
      0xFFF < (indexed 0xFFB [] []).i.toNat + (5 : Reg).val := by decide

theorem test_meets_IndexFaultReportsTheFirstBadAddress :
    exec (.bcdStore 0) (indexed 0xFFE [] []) = .fault (.boundsIndex 0x1000) ∧
      exec (.registerLoad 0) (indexed 0x2000 [] []) = .fault (.boundsIndex 0x2000) := ⟨rfl, rfl⟩

theorem test_meets_TickCountsEachTimerDown :
    State.reset.dt = 0 ∧ State.reset.st = 0 ∧ ({ State.reset with dt := 1 } : State).dt = 1 ∧
      ({ State.reset with st := 1 } : State).st = 1 ∧ 0 < ({ State.reset with dt := 0xFF } : State).dt.toNat := by decide

theorem test_meets_ClearDisplayTurnsEveryPixelOff : ∀ qx qy, State.reset.fb.get qx qy = false := by decide

/-- Nothing drawn at I = 0x1000 with n = 0; the last row at 0xFFF; a set bit of the sprite on a pixel. -/
theorem test_meets_DrawXorsTheWholeSprite :
    (0 : Fin 16).val = 0 ∧ (indexed 0xFF1 [] []).i.toNat + (15 : Fin 16).val ≤ 0x1000 ∧
      spriteBit (indexed 0xFFF [0x80] []) 0 0 1 0 0 = true := by decide

/-- P3's way: the first draw on a clear framebuffer, at registers 0 and 1, and again at them or at 2 and 3. -/
theorem test_meets_DrawingTwiceRestoresTheFramebuffer :
    (∃ t, exec (.draw 0 1 1) (indexed 0xFFF [0x80] [(0, 63), (2, 63)]) = .next t ∧
      t.reg 2 = (indexed 0xFFF [0x80] [(0, 63), (2, 63)]).reg 0 ∧
      t.reg 3 = (indexed 0xFFF [0x80] [(0, 63), (2, 63)]).reg 1) ∧
      0 < (1 : Fin 16).val ∧ 7 < 8 ∧
      ((indexed 0xFFF [0x80] [(0, 63), (2, 63)]).mem.read (0xFFF + 0)).getLsbD 7 = true :=
  ⟨⟨_, rfl, rfl, rfl⟩, by decide, by decide, by decide⟩

/-- The lowest key pressed is 3 or 15; no key is pressed. -/
theorem test_meets_WaitKeyStoresTheLowestPressedKey :
    (({ State.reset with key := keysDown [5, 3] } : State).keyPressed 3 = true ∧
      ∀ j, j < 3 → ({ State.reset with key := keysDown [5, 3] } : State).keyPressed j = false) ∧
      (({ State.reset with key := keysDown [15] } : State).keyPressed 15 = true ∧
        ∀ j, j < 15 → ({ State.reset with key := keysDown [15] } : State).keyPressed j = false) ∧
      ∀ k, State.reset.keyPressed k = false := by decide

theorem test_meets_AluInstructionsChangeOnlyTheirRegisters :
    ∃ t, familyOf (.add 0xF 2) = .alu ∧ exec (.add 0xF 2) State.reset = .next t := ⟨_, rfl, rfl⟩
theorem test_meets_ControlInstructionsChangeOnlyTheStack :
    ∃ t, familyOf (.call 0x300) = .control ∧ exec (.call 0x300) (stacked 15) = .next t := ⟨_, rfl, rfl⟩
theorem test_meets_TransferInstructionsChangeOnlyTheirTarget :
    ∃ t, familyOf (.registerLoad 0xF) = .transfer ∧ exec (.registerLoad 0xF) (indexed 0xFF0 [] []) = .next t :=
  ⟨_, rfl, rfl⟩
theorem test_meets_StoresChangeOnlyTheirBytes :
    ∃ t, familyOf (.registerDump 0xF) = .store ∧ exec (.registerDump 0xF) (indexed 0xFF0 [] []) = .next t :=
  ⟨_, rfl, rfl⟩
theorem test_meets_DisplayInstructionsChangeOnlyPixelsAndFlag :
    ∃ t, familyOf (.draw 0 1 1) = .display ∧ exec (.draw 0 1 1) (indexed 0xFFF [0x80] []) = .next t := ⟨_, rfl, rfl⟩

theorem test_meets_RegistersReadAreTheListedOnes :
    readsReg (.shiftRight 1 2) false 2 = false ∧ readsReg (.shiftRight 1 2) true 1 = false ∧
      readsReg (.jumpOffset 0x200) false 1 = false ∧ readsReg (.registerDump 3) false 4 = false := by decide

/-- Its two cases: a register written (SetImm), and one kept (Jump, and a WaitKey that finds no key). -/
theorem test_meets_RegistersReadAreTheListedOnes_cases :
    (readsReg (.setImm 1 7) false 1 = false ∧ writesNow (.setImm 1 7) State.reset 1 = true) ∧
      (readsReg (.jump 0x200) false 1 = false ∧ writesNow (.jump 0x200) State.reset 1 = false) ∧
      (readsReg (.waitKey 1) false 1 = false ∧ writesNow (.waitKey 1) State.reset 1 = false) ∧
      writesNow (.waitKey 1) { State.reset with key := keysDown [5] } 1 = true := by decide

theorem test_meets_SoundTimerAndVacatedSlotsAreNeverRead :
    (stacked 0).sp.val ≤ (0 : Fin 16).val ∧ (stacked 15).sp.val ≤ (15 : Fin 16).val := by decide

theorem test_meets_KeypadAndFramebufferAreReadOnlyByTheirInstructions :
    (∀ x, Instr.ret ≠ .skipKeyPressed x ∧ Instr.ret ≠ .skipKeyNotPressed x ∧ Instr.ret ≠ .waitKey x) ∧
      (∀ x y n, Instr.clearDisplay ≠ .draw x y n) ∧ Instr.ret ≠ .clearDisplay :=
  ⟨fun _ => ⟨nofun, nofun, nofun⟩, nofun, nofun⟩

/-- The addresses outside the font, at its two ends and at the top of memory. -/
theorem test_meets_ResetLeavesTheStatedValues :
    (0x4F < 0x50 ∨ (0xA0 ≤ 0x4F ∧ 0x4F < 0x1000)) ∧ (0xA0 < 0x50 ∨ (0xA0 ≤ 0xA0 ∧ 0xA0 < 0x1000)) ∧
      (0xFFF < 0x50 ∨ (0xA0 ≤ 0xFFF ∧ 0xFFF < 0x1000)) := by decide

theorem test_meets_LoadProgramPlacesTheImage :
    (List.replicate 3584 (0xFF : Byte)).length ≤ 3584 ∧ 3584 < (List.replicate 3585 (0xFF : Byte)).length := by
  simp only [List.length_replicate]; decide

theorem test_meets_StepKeepsTheInvariant :
    (placed 0x200 0x60 0x07).inv = true ∧ ∃ t, step (placed 0x200 0x60 0x07) = .next t := ⟨by decide, _, rfl⟩

theorem test_meets_EveryDriverRunKeepsTheInvariant :
    (placed 0xFFE 0x22 0x00).inv = true ∧ State.reset.inv = true := by decide

theorem test_meets_EndedRunLoopsInPlace : (placed 0x20C 0x12 0x0C).isEnded = true := by decide

end Sys2Proof.Tests
end

section
/-! The source's decoding examples, and what the two shifts carry and read (30_encoding.md R76; O5). -/

namespace Sys2Proof.Laws

/-- The two register fields a shift carries; none for every other instruction. -/
def shiftFields : Instr → Option (Reg × Reg)
  | .shiftRight x y | .shiftLeft x y => some (x, y)
  | _ => none

/-- Family 0 holds no shift. -/
theorem shiftFields_of_decodeFixed {w : Word} {i : Instr} (h : decodeFixed w = .ok i) : shiftFields i = none := by
  unfold decodeFixed at h
  split_ifs at h <;> cases h <;> rfl

/-- Family E holds no shift. -/
theorem shiftFields_of_decodeKeypad {w : Word} {i : Instr} (h : decodeKeypad w = .ok i) : shiftFields i = none := by
  unfold decodeKeypad at h
  split_ifs at h <;> cases h <;> rfl

/-- Family F holds no shift. -/
theorem shiftFields_of_decodeSelect {w : Word} {i : Instr} (h : decodeSelect w = .ok i) : shiftFields i = none := by
  unfold decodeSelect at h
  split_ifs at h <;> cases h <;> rfl

/-- A shift of family 8 carries the word's own x and y (R74). -/
theorem shiftFields_of_decodeAlu {w : Word} {i : Instr} {p : Reg × Reg} (h : decodeAlu w = .ok i)
    (hp : shiftFields i = some p) : (opX w, opY w) = p := by
  unfold decodeAlu at h
  split at h <;> cases h <;> cases hp <;> rfl

/-- Shifts come from family 8 alone, so a decoded shift carries the word's own x and y (R76). The case `h_k` is
family k - 1 of R74. -/
theorem shiftFields_of_decode {w : Word} {i : Instr} {p : Reg × Reg} (h : decode w = .ok i)
    (hp : shiftFields i = some p) : (opX w, opY w) = p := by
  unfold decode at h
  split at h
  case h_1 => simp [shiftFields_of_decodeFixed h] at hp
  case h_9 => exact shiftFields_of_decodeAlu h hp
  case h_15 => simp [shiftFields_of_decodeKeypad h] at hp
  case h_16 => simp [shiftFields_of_decodeSelect h] at hp
  case h_6 | h_10 =>
    split at h
    · cases h; cases hp
    · cases h
  all_goals cases h; cases hp

end Sys2Proof.Laws

namespace Sys2Proof.Machine

/-- With SHIFT_USES_VY false a shift reads Vx, whatever y is (R149, R151). -/
theorem State.shiftSource_of_not_usesVy {s : State} (h : s.shiftUsesVy = false) (x y : Reg) :
    s.shiftSource x y = s.reg x := by
  simp [State.shiftSource, h]

/-- Settles O5: the examples by evaluation, the shifts' fields from the decoder's family 8, and the independence of y
from the shifts' source operand. -/
theorem sourceDecodingExamples : Obligations.SourceDecodingExamples := by
  refine ⟨by decide, by decide, by decide, fun w x y h => ?_, fun x y z s hs => ?_⟩
  · have hf : (opX w, opY w) = (x, y) := by
      rcases h with h | h
      · exact Laws.shiftFields_of_decode h rfl
      · exact Laws.shiftFields_of_decode h rfl
    exact Prod.mk.inj hf
  · have hsrc : s.shiftSource x y = s.shiftSource x z := by
      rw [State.shiftSource_of_not_usesVy hs, State.shiftSource_of_not_usesVy hs]
    constructor
    · rw [exec_shiftRight, exec_shiftRight, execShiftRight, execShiftRight, hsrc]
    · rw [exec_shiftLeft, exec_shiftLeft, execShiftLeft, execShiftLeft, hsrc]

end Sys2Proof.Machine
end

section
/-! What an instruction answers, and where PC stands after it (40_cycle.md R101 to R104; O15, O17, O23). -/

namespace Sys2Proof.Machine

/-! ### The answer: the instruction's own fault, or a next state -/

/-- `r` is the answer that the own fault `own` stands for: that fault, or with none some next state. -/
def AnswersWith (own : Option Fault) (r : Result) : Prop :=
  match own with
  | none => ∃ t, r = .next t
  | some f => r = .fault f

/-- An answer that faults under the very condition of the own fault. -/
theorem answersWith_ite {p : Prop} [Decidable p] (f : Fault) (t : State) :
    AnswersWith (if p then some f else none) (if p then .fault f else .next t) := by
  split
  · rfl
  · exact ⟨t, rfl⟩

/-- A range-checked effect faults as rangeFault lists it (R170). -/
theorem State.inRange_answersWith (s : State) (n : Nat) (t : State) :
    AnswersWith (rangeFault s n) (s.inRange n t) := by
  unfold rangeFault
  split
  case isTrue h =>
    obtain ⟨hn, hi⟩ := h
    exact s.inRange_bad t hn hi
  case isFalse h => exact ⟨t, s.inRange_ok t (by omega)⟩

/-- Return answers Underflow at SP = 0 alone (R120). -/
theorem exec_ret_answersWith (s : State) : AnswersWith (ownFault .ret s) (exec .ret s) := by
  simp only [ownFault]
  rw [exec_ret, execRet]
  split
  case isTrue h => rw [State.pop_empty s h]; rfl
  case isFalse h => rw [State.pop_ok s (Nat.pos_of_ne_zero h)]; exact ⟨_, rfl⟩

/-- Call answers Overflow at SP = 16 alone (R122). -/
theorem exec_call_answersWith (nnn : Addr) (s : State) : AnswersWith (ownFault (.call nnn) s) (exec (.call nnn) s) := by
  simp only [ownFault]
  rw [exec_call, execCall]
  split
  case isTrue h => rw [State.push_full s _ h]; rfl
  case isFalse h => rw [State.push_ok s _ (by omega)]; exact ⟨_, rfl⟩

/-- WaitKey answers a next state whether it finds a key or not (R213, R214). -/
theorem exec_waitKey_answersWith (x : Reg) (s : State) : AnswersWith none (exec (.waitKey x) s) := by
  rw [exec_waitKey, execWaitKey]
  cases s.firstKey with
  | some k => exact ⟨_, rfl⟩
  | none => exact ⟨_, rfl⟩

/-- A key index up to 15 is that key (R209). -/
theorem State.keyIndex_eq_ofNat {s : State} {x : Reg} (h : ¬ 15 < (s.reg x).toNat) :
    s.keyIndex x = .ok (Fin.ofNat 16 (s.reg x).toNat) := by
  have hlt : (s.reg x).toNat < 16 := by omega
  rw [State.keyIndex_ok s x hlt]
  exact congrArg Except.ok (Fin.ext (Nat.mod_eq_of_lt hlt).symm)

/-- All SkipKeyPressed can do (R209, R210). -/
theorem exec_skipKeyPressed_eq (x : Reg) (s : State) :
    exec (.skipKeyPressed x) s = if 15 < (s.reg x).toNat then .fault (.boundsKeypad (s.reg x))
      else .next (s.skipIf (s.keyPressed (Fin.ofNat 16 (s.reg x).toNat))) := by
  rw [exec_skipKeyPressed, execSkipKeyPressed]
  by_cases h : 15 < (s.reg x).toNat
  · rw [State.keyIndex_bad s x h, if_pos h]; rfl
  · rw [State.keyIndex_eq_ofNat h, if_neg h]

/-- All SkipKeyNotPressed can do (R209, R211). -/
theorem exec_skipKeyNotPressed_eq (x : Reg) (s : State) :
    exec (.skipKeyNotPressed x) s = if 15 < (s.reg x).toNat then .fault (.boundsKeypad (s.reg x))
      else .next (s.skipIf (!s.keyPressed (Fin.ofNat 16 (s.reg x).toNat))) := by
  rw [exec_skipKeyNotPressed, execSkipKeyNotPressed]
  by_cases h : 15 < (s.reg x).toNat
  · rw [State.keyIndex_bad s x h, if_pos h]; rfl
  · rw [State.keyIndex_eq_ofNat h, if_neg h]

/-- Every instruction answers its own fault where it has one, and a next state everywhere else. -/
theorem exec_answersWith (i : Instr) (s : State) : AnswersWith (ownFault i s) (exec i s) := by
  cases i
  case ret => exact exec_ret_answersWith s
  case call nnn => exact exec_call_answersWith nnn s
  case waitKey x => exact exec_waitKey_answersWith x s
  case skipKeyPressed x => rw [exec_skipKeyPressed_eq]; exact answersWith_ite _ _
  case skipKeyNotPressed x => rw [exec_skipKeyNotPressed_eq]; exact answersWith_ite _ _
  case draw | bcdStore | registerDump | registerLoad => exact s.inRange_answersWith _ _
  all_goals exact ⟨_, rfl⟩

/-- Where an instruction has its own fault, it answers it. -/
theorem exec_of_ownFault_some {i : Instr} {s : State} {f : Fault} (h : ownFault i s = some f) :
    exec i s = .fault f := by
  have ha := exec_answersWith i s
  rwa [h] at ha

/-- Where an instruction has no fault of its own, it answers a next state. -/
theorem exec_of_ownFault_none {i : Instr} {s : State} (h : ownFault i s = none) : ∃ t, exec i s = .next t := by
  have ha := exec_answersWith i s
  rwa [h] at ha

/-- An instruction that answers a next state has no fault of its own. -/
theorem ownFault_of_exec_next {i : Instr} {s t : State} (h : exec i s = .next t) : ownFault i s = none := by
  cases hf : ownFault i s with
  | none => rfl
  | some f => cases h.symm.trans (exec_of_ownFault_some hf)

/-- Settles O15: an instruction without a fault of its own answers a next state. -/
theorem everyInstructionCompletesUnlessItFaults : Obligations.EveryInstructionCompletesUnlessItFaults :=
  fun _ _ h => exec_of_ownFault_none h

/-! ### The skips (R104) -/

/-- A skip that does not fault is the skip rule at its condition. -/
theorem exec_of_skipCondition {i : Instr} {s : State} {c : Bool} (hc : skipCondition i s = some c)
    (hf : ownFault i s = none) : exec i s = .next (s.skipIf c) := by
  cases i
  case skipEqImm | skipNeImm | skipEqReg | skipNeReg => cases hc; rfl
  case skipKeyPressed x =>
    cases hc
    have hk : ¬ 15 < (s.reg x).toNat := by simpa [ownFault] using hf
    rw [exec_skipKeyPressed_eq, if_neg hk]
  case skipKeyNotPressed x =>
    cases hc
    have hk : ¬ 15 < (s.reg x).toNat := by simpa [ownFault] using hf
    rw [exec_skipKeyNotPressed_eq, if_neg hk]
  all_goals cases hc

/-- The skip rule changes nothing but PC. -/
theorem State.skipIf_keepsAll (s : State) (c : Bool) : KeepsAll s (s.skipIf c) := by
  intro p
  cases p <;> rfl

/-- From a PC that can be fetched at, the skip rule does not wrap. -/
theorem State.skipIf_pc_toNat {s : State} (hpc : s.pc.toNat ≤ 0xFFE) (c : Bool) :
    (s.skipIf c).pc.toNat = s.pc.toNat + if c then 4 else 2 := by
  rw [State.skipIf_pc]
  cases c with
  | false => simp only [Bool.false_eq_true, if_false]; bv_omega
  | true => simp only [if_true]; bv_omega

/-- The skip rule as R104 states it, for a skip that does not fault: `d` is the exact advance its condition gives. -/
theorem exec_skip_spec {i : Instr} {s : State} {c : Bool} {d : Nat} (hpc : s.pc.toNat ≤ 0xFFE)
    (hc : skipCondition i s = some c) (hf : ownFault i s = none) (hd : (if c then 4 else 2) = d) :
    ∃ t, exec i s = .next t ∧ KeepsAll s t ∧ t.pc.toNat = s.pc.toNat + d :=
  ⟨s.skipIf c, exec_of_skipCondition hc hf, s.skipIf_keepsAll c, hd ▸ State.skipIf_pc_toNat hpc c⟩

/-- Settles O23: each of the six skips is the skip rule at its own condition. -/
theorem skipsFollowTheSkipRule : Obligations.SkipsFollowTheSkipRule := by
  intro s x y kk hpc
  refine ⟨exec_skip_spec hpc rfl rfl (by simp), exec_skip_spec hpc rfl rfl (by simp),
    exec_skip_spec hpc rfl rfl (by simp), exec_skip_spec hpc rfl rfl (by simp), fun k hk => ?_⟩
  have hkey : Fin.ofNat 16 (s.reg x).toNat = k := by rw [hk]; exact Fin.ofNat_val_eq_self k
  have hle : ¬ 15 < (s.reg x).toNat := by omega
  constructor
  · have hc : skipCondition (.skipKeyPressed x) s = some (s.keyPressed k) := by rw [skipCondition, hkey]
    exact exec_skip_spec hpc hc (if_neg hle) rfl
  · have hc : skipCondition (.skipKeyNotPressed x) s = some (!s.keyPressed k) := by rw [skipCondition, hkey]
    exact exec_skip_spec hpc hc (if_neg hle) (by cases s.keyPressed k <;> rfl)

/-! ### The default advance (R102) -/

/-- A range-checked effect that happens is that effect. -/
theorem State.eq_of_inRange_next {s t u : State} {n : Nat} (h : s.inRange n t = .next u) : u = t := by
  obtain ⟨hok, -⟩ | ⟨hbad, -⟩ := s.inRange_cases n t
  · cases h.symm.trans hok; rfl
  · cases h.symm.trans hbad

/-- Loading registers keeps PC. -/
@[simp] theorem State.loadRegs_pc (s : State) (ks : List Nat) : (s.loadRegs ks).pc = s.pc := by
  rw [State.loadRegs_eq]

/-- WaitKey with a key pressed advances PC by 2 (R213). -/
theorem exec_waitKey_pc {x : Reg} {s t : State} (h : exec (.waitKey x) s = .next t) (hk : s.firstKey ≠ none) :
    t.pc = s.pc + 2 := by
  obtain ⟨k, hk⟩ := Option.ne_none_iff_exists'.mp hk
  rw [exec_waitKey, execWaitKey, hk] at h
  cases h
  rfl

/-- WaitKey with no key pressed leaves the state as it was (R214; log 2). -/
theorem exec_waitKey_none {x : Reg} {s : State} (hk : s.firstKey = none) : exec (.waitKey x) s = .next s := by
  rw [exec_waitKey, execWaitKey, hk]

/-- An instruction whose rule does not set PC advances it by 2, a WaitKey only when it finds a key. -/
theorem exec_pc_of_not_setsPc {i : Instr} {s t : State} (h : exec i s = .next t) (hset : setsPc i = false)
    (hkey : ∀ x, i = .waitKey x → s.firstKey ≠ none) : t.pc = s.pc + 2 := by
  cases i
  case ret | jump | call | jumpOffset => cases hset
  case skipEqImm | skipNeImm | skipEqReg | skipNeReg | skipKeyPressed | skipKeyNotPressed => cases hset
  case waitKey x => exact exec_waitKey_pc h (hkey x rfl)
  case draw | bcdStore | registerDump => rw [State.eq_of_inRange_next h]; rfl
  case registerLoad => rw [State.eq_of_inRange_next h]; simp
  all_goals cases h; rfl

/-- Of the instructions that set PC, those without a condition are the control transfers (R103). -/
theorem controlTransfer_of_setsPc {i : Instr} {s : State} (hset : setsPc i = true) (hc : skipCondition i s = none) :
    i = .ret ∨ ∃ nnn, i = .jump nnn ∨ i = .call nnn ∨ i = .jumpOffset nnn := by
  cases i
  case ret => exact .inl rfl
  case jump nnn => exact .inr ⟨nnn, .inl rfl⟩
  case call nnn => exact .inr ⟨nnn, .inr (.inl rfl)⟩
  case jumpOffset nnn => exact .inr ⟨nnn, .inr (.inr rfl)⟩
  case skipEqImm | skipNeImm | skipEqReg | skipNeReg | skipKeyPressed | skipKeyNotPressed => cases hc
  all_goals cases hset

/-- Settles O17: the default advance, the suspended WaitKey, the skip rule and the control transfers, each by its
lemma. -/
theorem defaultAdvanceIsTwo : Obligations.DefaultAdvanceIsTwo := by
  intro i s t h
  refine ⟨fun hset => ⟨exec_pc_of_not_setsPc h hset, ?_⟩, ?_, controlTransfer_of_setsPc⟩
  · rintro x rfl hk
    cases h.symm.trans (exec_waitKey_none hk)
    rfl
  · intro c hc
    cases h.symm.trans (exec_of_skipCondition hc (ownFault_of_exec_next h))
    exact s.skipIf_pc c

end Sys2Proof.Machine
end

section
/-! The Call instruction: its word, its effect on the stack and PC, and its overflow (41_control.md R122; O21). -/

namespace Sys2Proof.Laws

/-- The words of family 2 decode to Call with their address field (R74). -/
theorem decode_wordAddr_call (nnn : Addr) : decode (wordAddr 0x2 nnn) = .ok (.call nnn) := by
  rw [decode, opFamily_wordAddr, opNNN_wordAddr]
  rfl

end Sys2Proof.Laws

namespace Sys2Proof.Machine

/-- An address is zero-extended to a word of the same value. -/
@[simp] theorem zextAddr_toNat (a : Addr) : (zextAddr a).toNat = a.toNat :=
  BitVec.toNat_setWidth_of_le (by decide)

/-- The state after a Call to nnn with j slots in use: PC in slot j, SP one more, PC at nnn (R122). -/
def State.afterCall (s : State) (j : Fin 16) (nnn : Addr) : State :=
  { s with stack := s.stack.set j s.pc, sp := j.succ, pc := zextAddr nnn }

/-- Below the capacity, Call answers that state. -/
theorem exec_call_of_sp_eq {s : State} {j : Fin 16} (hj : j.val = s.sp.val) (nnn : Addr) :
    exec (.call nnn) s = .next (s.afterCall j nnn) := by
  have hsp : s.sp = j.castSucc := Fin.ext hj.symm
  rw [exec_call, execCall, State.push_ok s s.pc (hj ▸ j.isLt)]
  simp only [hsp]
  rfl

/-- The slot in use last after a Call holds the Call's own address. -/
theorem State.afterCall_stack_same (s : State) (j : Fin 16) (nnn : Addr) : (s.afterCall j nnn).stack[j] = s.pc :=
  Vector.getElem_set_self j.isLt

/-- Every other slot keeps its value. -/
theorem State.afterCall_stack_other (s : State) {j k : Fin 16} (nnn : Addr) (h : k ≠ j) :
    (s.afterCall j nnn).stack[k] = s.stack[k] :=
  Vector.getElem_set_ne j.isLt k.isLt fun e => h (Fin.ext e.symm)

/-- A Call changes nothing but PC, SP and slot j. -/
theorem State.afterCall_keepsBut (s : State) (j : Fin 16) (nnn : Addr) :
    KeepsBut (fun p => p == .sp || p == .slot j) s (s.afterCall j nnn) := by
  intro p hp
  cases p
  case sp => cases hp
  case slot k => exact s.afterCall_stack_other nnn fun e => by simp [e] at hp
  all_goals rfl

/-- Settles O21: the decoder's family 2, the state a Call answers below the capacity, and its own fault at the
capacity. -/
theorem callPushesItsOwnAddress : Obligations.CallPushesItsOwnAddress := by
  intro nnn s
  refine ⟨Laws.decode_wordAddr_call nnn, fun j hj => ?_, fun hsp => exec_of_ownFault_some (if_pos hsp)⟩
  have hslot := s.afterCall_stack_same j nnn
  exact ⟨s.afterCall j nnn, exec_call_of_sp_eq hj nnn, zextAddr_toNat nnn, congrArg (· + 1) hj, hslot,
    fun hpc => hslot ▸ hpc, s.afterCall_keepsBut j nnn⟩

end Sys2Proof.Machine
end

section
/-! Setting I: to an address, and to the address of a glyph (43_index_memory.md R171, R173; O33). -/

namespace Sys2Proof.Laws

/-- The words of family A decode to SetIndex with their address field (R74). -/
theorem decode_wordAddr_setIndex (nnn : Addr) : decode (wordAddr 0xA nnn) = .ok (.setIndex nnn) := by
  rw [decode, opFamily_wordAddr, opNNN_wordAddr]
  rfl

end Sys2Proof.Laws

namespace Sys2Proof.Machine

/-- The glyph address of a byte is the unmasked formula: the largest, 0x50 + 5 * 255, fits in 16 bits (R173). -/
@[simp] theorem glyphAddr_toNat (b : Byte) : (glyphAddr b).toNat = 0x50 + 5 * b.toNat := by
  have hb : b.toNat < 2 ^ 8 := b.isLt
  have hfits : 0x50 + 5 * b.toNat < 2 ^ 16 := by omega
  exact (BitVec.toNat_ofNat _ _).trans (Nat.mod_eq_of_lt hfits)

/-- Setting I and advancing changes nothing but I and PC. -/
theorem State.setI_advance_keepsBut (s : State) (w : Word) :
    KeepsBut (fun p => p == .index) s (s.setI w).advance := by
  intro p hp
  cases p
  case index => cases hp
  all_goals rfl

/-- An instruction that sets I to `w` and advances completes with that value, and changes only I and PC. -/
theorem exec_setI_spec {i : Instr} {s : State} {w : Word} {n : Nat} (h : exec i s = .next (s.setI w).advance)
    (hw : w.toNat = n) :
    ∃ t, exec i s = .next t ∧ t.pc = s.pc + 2 ∧ t.i.toNat = n ∧ KeepsBut (fun p => p == .index) s t :=
  ⟨(s.setI w).advance, h, rfl, hw, s.setI_advance_keepsBut w⟩

/-- Settles O33: the decoder's family A, and for each of the two instructions the value it sets I to. -/
theorem indexIsSetAsGiven : Obligations.IndexIsSetAsGiven := by
  intro s x nnn
  exact ⟨Laws.decode_wordAddr_setIndex nnn, exec_setI_spec (exec_setIndex nnn s) (zextAddr_toNat nnn),
    exec_setI_spec (exec_setIndexGlyph x s) (glyphAddr_toNat (s.reg x))⟩

end Sys2Proof.Machine
end

section
/-! One tick of the two timers, and what it leaves unchanged (44_timers.md R196, R199; O41). -/

namespace Sys2Proof.Machine

/-- The byte subtraction never wraps, since a timer at 0 stays (R196). -/
@[simp] theorem countDown_toNat (b : Byte) : (countDown b).toNat = b.toNat - 1 := by
  by_cases hb : b = 0
  · subst hb
    rfl
  · have hone : 1 ≤ b := by bv_omega
    rw [countDown, if_neg hb]
    exact BitVec.toNat_sub_of_le hone

/-- The countdown with the spec's condition on the timer written out (R196). -/
theorem countDown_toNat_eq_ite (b : Byte) :
    (countDown b).toNat = if 0 < b.toNat then b.toNat - 1 else 0 := by
  rw [countDown_toNat]
  split
  · rfl
  · omega

/-- A timer at 0 stays there, and one at 1 reaches it (R199). -/
theorem countDown_eq_zero {b : Byte} (h : b = 0 ∨ b = 1) : countDown b = 0 := by
  obtain rfl | rfl := h
  · rfl
  · rfl

/-- A tick changes only the two timers, in a suspended or faulted state as well (R196). -/
theorem State.tick_keepsBut (s : State) : KeepsBut (fun p => p == .delay || p == .sound) s s.tick := by
  intro p hp
  cases p
  case delay | sound => cases hp
  all_goals rfl

/-- Settles O41: each timer by the countdown of its own byte, the rest by the frame of a tick. -/
theorem tickCountsEachTimerDown : Obligations.TickCountsEachTimerDown := by
  intro s
  exact ⟨countDown_toNat_eq_ite s.dt, countDown_toNat_eq_ite s.st, s.tick_pc, s.tick_keepsBut,
    countDown_eq_zero, countDown_eq_zero⟩

end Sys2Proof.Machine
end

section
/-! Which registers an instruction can observe (10_state.md section 1, R22; O51). A register write made before an
instruction that does not read the register can as well be made after it, unless the instruction writes that register
itself; then it is lost. -/

namespace Sys2Proof.Machine

/-! ### A register write that is lost where the register is written again -/

/-- `V[r] <- b`, unless `lost`. -/
def State.setRegUnless (lost : Bool) (r : Reg) (b : Byte) (s : State) : State :=
  if lost then s else s.setReg r b

/-- `f` applied to the next state; a fault carries none. -/
def mapNext (f : State → State) : Result → Result
  | .next t => .next (f t)
  | .fault g => .fault g
  | .refused q => .refused q

/-- Of two writes to one register the second stays. -/
theorem State.setReg_setReg_same (s : State) (r : Reg) (b c : Byte) : (s.setReg r b).setReg r c = s.setReg r c := by
  simp only [State.setReg, Vector.set_set]

/-- Writes to two registers commute. -/
theorem State.setReg_comm (s : State) {r x : Reg} (b c : Byte) (h : r ≠ x) :
    (s.setReg r b).setReg x c = (s.setReg x c).setReg r b := by
  have hv : r.val ≠ x.val := fun e => h (Fin.ext e)
  simp only [State.setReg, Vector.set_comm b c hv]

/-- Writing a register the value it has changes nothing. -/
theorem State.setReg_reg_self (s : State) (r : Reg) : s.setReg r (s.reg r) = s := by
  simp [State.setReg, State.reg]

/-- A write before a second register write can be made after it, unless both are to one register. -/
theorem State.setRegUnless_setReg (s : State) (lost : Bool) (r x : Reg) (b c : Byte) :
    (s.setRegUnless lost r b).setReg x c = (s.setReg x c).setRegUnless (lost || r == x) r b := by
  cases lost with
  | true => rfl
  | false =>
    by_cases h : r = x
    · subst h
      simpa [State.setRegUnless] using s.setReg_setReg_same r b c
    · simpa [State.setRegUnless, h] using s.setReg_comm b c h

/-- A write before the default advance can be made after it. -/
theorem State.setRegUnless_advance (s : State) (lost : Bool) (r : Reg) (b : Byte) :
    (s.setRegUnless lost r b).advance = s.advance.setRegUnless lost r b := by
  cases lost <;> rfl

/-- The same for a register write that advances. -/
theorem State.setReg_setReg_advance (s : State) (r x : Reg) (b c : Byte) :
    ((s.setReg r b).setReg x c).advance = (s.setReg x c).advance.setRegUnless (r == x) r b := by
  rw [← State.setRegUnless_advance]
  exact congrArg State.advance (s.setRegUnless_setReg false r x b c)

/-- The same for a result with a flag: Vx and VF are both written (R106). -/
theorem State.setReg_writeWithFlag (s : State) (r x : Reg) (b a f : Byte) :
    (s.setReg r b).writeWithFlag x a f = (s.writeWithFlag x a f).setRegUnless (r == x || r == VF) r b := by
  have hx : (s.setReg r b).setReg x a = (s.setReg x a).setRegUnless (r == x) r b :=
    s.setRegUnless_setReg false r x b a
  rw [State.writeWithFlag, State.writeWithFlag, hx, State.setRegUnless_setReg, State.setRegUnless_advance]

/-- The same for a register load, which writes every register listed (R176). -/
theorem State.setReg_loadRegs (s : State) (r : Reg) (b : Byte) (ks : List Nat) (hks : ∀ k ∈ ks, k < 16) :
    (s.setReg r b).loadRegs ks = (s.loadRegs ks).setRegUnless (decide (r.val ∈ ks)) r b := by
  induction ks generalizing s with
  | nil => rfl
  | cons k ks ih =>
    have hk : (Fin.ofNat 16 k).val = k := Nat.mod_eq_of_lt (hks k (by simp))
    rw [State.loadRegs, State.loadRegs, State.setReg_mem, State.setReg_i]
    by_cases he : r = Fin.ofNat 16 k
    · have hmem : r.val ∈ k :: ks := List.mem_cons.mpr (.inl ((congrArg Fin.val he).trans hk))
      rw [he, State.setReg_setReg_same, ← he, decide_eq_true hmem]
      rfl
    · have hne : r.val ≠ k := fun e => he (Fin.ext (e.trans hk.symm))
      rw [State.setReg_comm _ _ _ he, ih _ fun j hj => hks j (by simp [hj])]
      simp [hne]

/-! ### Operands that do not see the write -/

/-- A register that is not read differs from the one that is. -/
theorem State.setReg_reg_of_unread (s : State) {r x : Reg} (b : Byte) (h : (r == x) = false) :
    (s.setReg r b).reg x = s.reg x := by
  rw [State.setReg_reg, if_neg (Ne.symm (beq_eq_false_iff_ne.mp h))]

/-- The same for two operands. -/
theorem State.setReg_regs_of_unread (s : State) {r x y : Reg} (b : Byte) (h : (r == x || r == y) = false) :
    (s.setReg r b).reg x = s.reg x ∧ (s.setReg r b).reg y = s.reg y := by
  obtain ⟨hx, hy⟩ := Bool.or_eq_false_iff.mp h
  exact ⟨s.setReg_reg_of_unread b hx, s.setReg_reg_of_unread b hy⟩

/-- The source of a shift is the one register SHIFT_USES_VY selects (R149, R151). -/
theorem State.setReg_shiftSource_of_unread (s : State) {r x y : Reg} (b : Byte)
    (h : (if s.shiftUsesVy then r == y else r == x) = false) :
    (s.setReg r b).shiftSource x y = s.shiftSource x y := by
  rw [State.shiftSource, State.shiftSource, State.setReg_shiftUsesVy]
  split at h
  case isTrue hv => rw [if_pos hv, if_pos hv, State.setReg_reg_of_unread s b h]
  case isFalse hv => rw [if_neg hv, if_neg hv, State.setReg_reg_of_unread s b h]

/-- V0..Vx hold no register above x (R175). -/
theorem State.setReg_regsUpTo_of_unread (s : State) {r x : Reg} (b : Byte) (h : decide (r ≤ x) = false) :
    (s.setReg r b).regsUpTo x = s.regsUpTo x := by
  have hlt : x.val < r.val := Nat.lt_of_not_le (of_decide_eq_false h)
  refine List.map_congr_left fun k hk => s.setReg_reg_of_unread b (beq_eq_false_iff_ne.mpr fun e => ?_)
  have hle : r.val ≤ k := e ▸ Nat.mod_le k 16
  have hkx : k < x.val + 1 := List.mem_range.mp hk
  omega

/-! ### The instructions that can fault -/

/-- The range check reads no register. -/
theorem State.setReg_inRange (s : State) (r : Reg) (b : Byte) (n : Nat) (f : State → State) (t : State) :
    (s.setReg r b).inRange n (f t) = mapNext f (s.inRange n t) := by
  rw [State.inRange, State.inRange, State.setReg_i]
  cases firstBadAddr s.i n with
  | some a => rfl
  | none => rfl

/-- A store of bytes that do not depend on the register written keeps that write. -/
theorem State.setReg_inRange_setMem (s : State) (r : Reg) (b : Byte) (n : Nat) (m : Memory) :
    (s.setReg r b).inRange n ((s.setReg r b).setMem m).advance
      = mapNext (State.setRegUnless false r b) (s.inRange n (s.setMem m).advance) :=
  s.setReg_inRange r b n (State.setRegUnless false r b) (s.setMem m).advance

/-- Return reads and writes no register. -/
theorem exec_ret_setReg (s : State) (r : Reg) (b : Byte) :
    exec .ret (s.setReg r b) = mapNext (State.setRegUnless false r b) (exec .ret s) := by
  rw [exec_ret, exec_ret, execRet, execRet]
  by_cases h : s.sp.val = 0
  · rw [State.pop_empty s h, State.pop_empty (s.setReg r b) h]
    rfl
  · have hpos : 0 < s.sp.val := Nat.pos_of_ne_zero h
    rw [State.pop_ok s hpos, State.pop_ok (s.setReg r b) hpos]
    rfl

/-- Call reads and writes no register. -/
theorem exec_call_setReg (nnn : Addr) (s : State) (r : Reg) (b : Byte) :
    exec (.call nnn) (s.setReg r b) = mapNext (State.setRegUnless false r b) (exec (.call nnn) s) := by
  rw [exec_call, exec_call, execCall, execCall, State.setReg_pc]
  by_cases h : s.sp.val < 16
  · rw [State.push_ok s _ h, State.push_ok (s.setReg r b) _ h]
    rfl
  · have hfull : s.sp.val = 16 := by omega
    rw [State.push_full s _ hfull, State.push_full (s.setReg r b) _ hfull]
    rfl

/-- WaitKey reads no register, and overwrites Vx when it finds a key (R213, R214). -/
theorem exec_waitKey_setReg (x : Reg) (s : State) (r : Reg) (b : Byte) :
    exec (.waitKey x) (s.setReg r b)
      = mapNext (State.setRegUnless (r == x && s.firstKey.isSome) r b) (exec (.waitKey x) s) := by
  have hkeys : (s.setReg r b).firstKey = s.firstKey := rfl
  rw [exec_waitKey, exec_waitKey, execWaitKey, execWaitKey, hkeys]
  cases s.firstKey with
  | some k =>
    rw [Option.isSome_some, Bool.and_true]
    exact congrArg Host.Outcome.next (s.setReg_setReg_advance r x b _)
  | none =>
    rw [Option.isSome_none, Bool.and_false]
    rfl

/-- RegisterLoad reads no register, and overwrites V0..Vx (R176). -/
theorem exec_registerLoad_setReg (x : Reg) (s : State) (r : Reg) (b : Byte) :
    exec (.registerLoad x) (s.setReg r b)
      = mapNext (State.setRegUnless (decide (r ≤ x)) r b) (exec (.registerLoad x) s) := by
  have hlt : ∀ k ∈ List.range (x.val + 1), k < 16 := fun k hk => by
    have := List.mem_range.mp hk
    omega
  have hmem : decide (r.val ∈ List.range (x.val + 1)) = decide (r ≤ x) :=
    decide_eq_decide.mpr (List.mem_range.trans Nat.lt_succ_iff)
  rw [exec_registerLoad, exec_registerLoad, execRegisterLoad, execRegisterLoad, State.setReg_loadRegs s r b _ hlt, hmem,
    State.setRegUnless_advance]
  exact s.setReg_inRange r b _ _ _

/-! ### Every instruction -/

/-- The commuting diagram: a write to a register the instruction does not read is the same write made afterwards, or is
lost where the instruction writes that register. -/
theorem exec_setReg {i : Instr} {s : State} {r : Reg} (b : Byte) (h : readsReg i s.shiftUsesVy r = false) :
    exec i (s.setReg r b) = mapNext (State.setRegUnless (writesNow i s r) r b) (exec i s) := by
  cases i
  case clearDisplay | jump | setIndex => rfl
  case ret => exact exec_ret_setReg s r b
  case call nnn => exact exec_call_setReg nnn s r b
  case waitKey x => exact exec_waitKey_setReg x s r b
  case registerLoad x => exact exec_registerLoad_setReg x s r b
  case setImm x _ | getDelay x => exact congrArg Host.Outcome.next (s.setReg_setReg_advance r x b _)
  case randomAnd x _ => exact congrArg Host.Outcome.next (s.countDraw.setReg_setReg_advance r x b _)
  case addImm x kk =>
    rw [exec_addImm, execAddImm, s.setReg_reg_of_unread b h]
    exact congrArg Host.Outcome.next (s.setReg_setReg_advance r x b _)
  case assign x y =>
    rw [exec_assign, execAssign, s.setReg_reg_of_unread b h]
    exact congrArg Host.Outcome.next (s.setReg_setReg_advance r x b _)
  case or x y | and x y | xor x y =>
    obtain ⟨hx, hy⟩ := s.setReg_regs_of_unread b h
    simp only [exec_or, exec_and, exec_xor, execOr, execAnd, execXor, hx, hy]
    exact congrArg Host.Outcome.next (s.setReg_setReg_advance r x b _)
  case add x y | sub x y | reverseSub x y =>
    obtain ⟨hx, hy⟩ := s.setReg_regs_of_unread b h
    simp only [exec_add, exec_sub, exec_reverseSub, execAdd, execSub, execReverseSub, hx, hy]
    exact congrArg Host.Outcome.next (s.setReg_writeWithFlag r x b _ _)
  case shiftRight x y | shiftLeft x y =>
    have hsrc := s.setReg_shiftSource_of_unread b h
    simp only [exec_shiftRight, exec_shiftLeft, execShiftRight, execShiftLeft, hsrc]
    exact congrArg Host.Outcome.next (s.setReg_writeWithFlag r x b _ _)
  case skipEqReg x y | skipNeReg x y =>
    obtain ⟨hx, hy⟩ := s.setReg_regs_of_unread b h
    simp only [exec_skipEqReg, exec_skipNeReg, execSkipEqReg, execSkipNeReg, hx, hy]
    rfl
  case skipEqImm | skipNeImm | jumpOffset | setDelay | setSound | addIndex | setIndexGlyph =>
    have hx := s.setReg_reg_of_unread b h
    simp only [exec_skipEqImm, exec_skipNeImm, exec_jumpOffset, exec_setDelay, exec_setSound, exec_addIndex,
      exec_setIndexGlyph, execSkipEqImm, execSkipNeImm, execJumpOffset, execSetDelay, execSetSound, execAddIndex,
      execSetIndexGlyph, hx]
    rfl
  case skipKeyPressed | skipKeyNotPressed =>
    have hx := s.setReg_reg_of_unread b h
    simp only [exec_skipKeyPressed_eq, exec_skipKeyNotPressed_eq, hx]
    split
    · rfl
    · rfl
  case draw x y n =>
    obtain ⟨hx, hy⟩ := s.setReg_regs_of_unread b h
    have hdrawn : drawSprite (s.setReg r b) (s.reg x) (s.reg y) n.val = drawSprite s (s.reg x) (s.reg y) n.val := rfl
    have hadv := (s.setFb (drawSprite s (s.reg x) (s.reg y) n.val).1).setReg_setReg_advance r VF b
      (flagByte (drawSprite s (s.reg x) (s.reg y) n.val).2)
    rw [exec_draw, exec_draw, execDraw, execDraw, hx, hy, hdrawn]
    exact (congrArg _ hadv).trans (s.setReg_inRange r b _ _ _)
  case bcdStore x =>
    rw [exec_bcdStore, execBcdStore, s.setReg_reg_of_unread b h]
    exact s.setReg_inRange_setMem r b _ _
  case registerDump x =>
    rw [exec_registerDump, execRegisterDump, s.setReg_regsUpTo_of_unread b h]
    exact s.setReg_inRange_setMem r b _ _

/-- A register an instruction neither reads nor writes is kept: by the diagram, written with the value it has. -/
theorem exec_keeps_reg_of_not_writesNow {i : Instr} {s t : State} {r : Reg} (hr : readsReg i s.shiftUsesVy r = false)
    (hw : writesNow i s r = false) (ht : exec i s = .next t) : t.reg r = s.reg r := by
  have hcomm := exec_setReg (s.reg r) hr
  rw [State.setReg_reg_self, hw, ht] at hcomm
  have hself : t = t.setReg r (s.reg r) := Host.Outcome.next.inj hcomm
  rw [hself, State.setReg_reg, if_pos rfl]

/-- A register write changes no other part. -/
theorem State.setRegUnless_keepsBut (s : State) (lost : Bool) (r : Reg) (b : Byte) :
    KeepsBut (fun p => p == .reg r) s (s.setRegUnless lost r b) := by
  intro p hp
  cases lost with
  | true => cases p <;> rfl
  | false =>
    cases p
    case reg q =>
      have hq : q ≠ r := by simpa using hp
      exact s.setReg_reg_of_unread b (beq_eq_false_iff_ne.mpr hq.symm)
    all_goals rfl

/-- It does not change PC either. -/
@[simp] theorem State.setRegUnless_pc (s : State) (lost : Bool) (r : Reg) (b : Byte) :
    (s.setRegUnless lost r b).pc = s.pc := by
  cases lost <;> rfl

/-- Settles O51: by the commuting diagram the two next states differ by one register write, or not at all. -/
theorem registersReadAreTheListedOnes : Obligations.RegistersReadAreTheListedOnes := by
  intro i s r b h
  rw [exec_setReg b h]
  cases ht : exec i s with
  | next t =>
    refine ⟨t.setRegUnless_pc _ r b, t.setRegUnless_keepsBut _ r b, fun hw => ?_, fun hw => ⟨?_, ?_⟩⟩
    · rw [hw]
      rfl
    · exact exec_keeps_reg_of_not_writesNow h hw ht
    · rw [hw]
      exact (t.setReg_reg r b r).trans (if_pos rfl)
  | fault f => rfl
  | refused q => rfl

end Sys2Proof.Machine
end

section
/-! ClearDisplay: its one word, and its effect (45_display_keypad.md R200; O42). -/

namespace Sys2Proof.Laws

/-- Family 0 holds ClearDisplay at one word (R74). -/
theorem eq_of_decodeFixed_clearDisplay {w : Word} (h : decodeFixed w = .ok .clearDisplay) : w = 0x00E0 := by
  unfold decodeFixed at h
  split_ifs at h with hw
  · exact hw
  · cases h

/-- Family 8 holds no ClearDisplay. -/
theorem decodeAlu_ne_clearDisplay (w : Word) : decodeAlu w ≠ .ok .clearDisplay := by
  intro h
  unfold decodeAlu at h
  split at h <;> cases h

/-- Family E holds no ClearDisplay. -/
theorem decodeKeypad_ne_clearDisplay (w : Word) : decodeKeypad w ≠ .ok .clearDisplay := by
  intro h
  unfold decodeKeypad at h
  split_ifs at h <;> cases h

/-- Family F holds no ClearDisplay. -/
theorem decodeSelect_ne_clearDisplay (w : Word) : decodeSelect w ≠ .ok .clearDisplay := by
  intro h
  unfold decodeSelect at h
  split_ifs at h <;> cases h

/-- ClearDisplay comes from family 0 alone, at its one word. The case `h_k` is family k - 1 of R74. -/
theorem decode_eq_clearDisplay_iff (w : Word) : decode w = .ok .clearDisplay ↔ w = 0x00E0 := by
  constructor
  · intro h
    unfold decode at h
    split at h
    case h_1 => exact eq_of_decodeFixed_clearDisplay h
    case h_9 => exact absurd h (decodeAlu_ne_clearDisplay w)
    case h_15 => exact absurd h (decodeKeypad_ne_clearDisplay w)
    case h_16 => exact absurd h (decodeSelect_ne_clearDisplay w)
    case h_6 | h_10 => split at h <;> cases h
    all_goals cases h
  · rintro rfl
    rfl

end Sys2Proof.Laws

namespace Sys2Proof.Machine

/-- Replacing the framebuffer and advancing changes nothing but pixels and PC. -/
theorem State.setFb_advance_same (s : State) (fb : Framebuffer) {p : Part} (hp : ∀ qx qy, p ≠ .pixel qx qy) :
    p.same s (s.setFb fb).advance := by
  cases p
  case pixel qx qy => exact absurd rfl (hp qx qy)
  all_goals rfl

/-- Clearing a clear framebuffer changes nothing but PC (R200). -/
theorem State.setFb_cleared_advance_keepsAll {s : State} (hs : ∀ qx qy, s.fb.get qx qy = false) :
    KeepsAll s (s.setFb Framebuffer.cleared).advance := by
  intro p
  by_cases hp : ∃ qx qy, p = .pixel qx qy
  · obtain ⟨qx, qy, rfl⟩ := hp
    exact (Framebuffer.get_cleared qx qy).trans (hs qx qy).symm
  · exact s.setFb_advance_same _ fun qx qy e => hp ⟨qx, qy, e⟩

/-- Settles O42: the decoder's family 0, and the state with the cleared framebuffer. -/
theorem clearDisplayTurnsEveryPixelOff : Obligations.ClearDisplayTurnsEveryPixelOff := by
  refine ⟨Laws.decode_eq_clearDisplay_iff, fun s => ?_⟩
  exact ⟨(s.setFb Framebuffer.cleared).advance, exec_clearDisplay s, rfl, Framebuffer.get_cleared,
    fun _ hp => s.setFb_advance_same _ hp, State.setFb_cleared_advance_keepsAll⟩

end Sys2Proof.Machine
end

section
/-! WaitKey: the scan of the keypad, and the register it writes (45_display_keypad.md R213, R214; O45). -/

namespace Sys2Proof.Machine

/-- The scan finds the lowest pressed key (R213). -/
theorem State.firstKey_of_lowest {s : State} {k : Fin 16} (hk : s.keyPressed k = true)
    (hlow : ∀ j, j < k → s.keyPressed j = false) : s.firstKey = some k := by
  refine List.find?_eq_some_iff_getElem.mpr ⟨hk, k.val, by simp, by simp, fun j hj => ?_⟩
  have hj16 : j < 16 := Nat.lt_trans hj k.isLt
  have hoff : s.keyPressed ⟨j, hj16⟩ = false := hlow ⟨j, hj16⟩ hj
  simp [hoff]

/-- With no key pressed the scan finds none (R214). -/
theorem State.firstKey_of_none_pressed {s : State} (h : ∀ k, s.keyPressed k = false) : s.firstKey = none :=
  List.find?_eq_none.mpr fun k _ => by simp [h k]

/-- A key index fits in a byte. -/
theorem toNat_ofNat_key (k : Fin 16) : (BitVec.ofNat 8 k.val).toNat = k.val :=
  (BitVec.toNat_ofNat _ _).trans (Nat.mod_eq_of_lt (by omega))

/-- WaitKey that finds key k writes it to Vx and advances (R213). -/
theorem exec_waitKey_some {s : State} {k : Fin 16} (x : Reg) (hk : s.firstKey = some k) :
    exec (.waitKey x) s = .next (s.setReg x (BitVec.ofNat 8 k.val)).advance := by
  rw [exec_waitKey, execWaitKey, hk]

/-- Settles O45: what the scan finds decides between the write of Vx and the suspended step. -/
theorem waitKeyStoresTheLowestPressedKey : Obligations.WaitKeyStoresTheLowestPressedKey := by
  intro s x
  refine ⟨fun k hk hlow => ?_, fun hnone => exec_waitKey_none (State.firstKey_of_none_pressed hnone)⟩
  refine ⟨_, exec_waitKey_some x (State.firstKey_of_lowest hk hlow), rfl, ?_, fun q hq => ?_⟩
  · rw [State.advance_reg, State.setReg_reg, if_pos rfl, toNat_ofNat_key]
  · rw [State.advance_reg, State.setReg_reg, if_neg hq]

end Sys2Proof.Machine
end

section
/-! The words of R77's list: what the decoder makes of each, and what a step does that fetches one (30_encoding.md R77,
60_exceptions.md R221; O11). -/

namespace Sys2Proof.Laws

/-! ### The fields as R77 counts them -/

/-- The family is the word's highest nibble (R71). -/
theorem opFamily_toNat (w : Word) : (opFamily w).toNat = w.toNat / 0x1000 := by
  have hw : w.toNat / 0x1000 < 2 ^ 4 := by omega
  rw [opFamily, BitVec.extractLsb'_toNat, Nat.shiftRight_eq_div_pow]
  exact Nat.mod_eq_of_lt hw

/-- The low nibble is the word's remainder by 0x10 (R71). -/
theorem opN_toNat (w : Word) : (opN w).toNat = w.toNat % 0x10 := BitVec.extractLsb'_toNat 0 4 w

/-- The low byte is the word's remainder by 0x100 (R71). -/
theorem opKK_toNat (w : Word) : (opKK w).toNat = w.toNat % 0x100 := BitVec.extractLsb'_toNat 0 8 w

/-- The family from the quotient that R77's list names it by. -/
theorem opFamily_eq_of_div {w : Word} (f : BitVec 4) (h : w.toNat / 0x1000 = f.toNat) : opFamily w = f :=
  BitVec.eq_of_toNat_eq ((opFamily_toNat w).trans h)

/-! ### The decoder on the five clauses of R77 -/

/-- R77 (a): family 0 holds no instruction but its two words. -/
theorem decode_of_illegalFixed {w : Word} (h : illegalFixed w = true) : decode w = .error (.illegal w) := by
  simp only [illegalFixed, Bool.and_eq_true, decide_eq_true_eq, bne_iff_ne] at h
  obtain ⟨⟨hfam, hclear⟩, hret⟩ := h
  rw [decode, opFamily_eq_of_div 0x0 hfam]
  exact (if_neg hclear).trans (if_neg hret)

/-- R77 (b): families 5 and 9 hold no instruction at a low nibble other than 0. -/
theorem decode_of_illegalRegReg {w : Word} (h : illegalRegReg w = true) : decode w = .error (.illegal w) := by
  simp only [illegalRegReg, Bool.and_eq_true, Bool.or_eq_true, decide_eq_true_eq] at h
  obtain ⟨hfam, hlow⟩ := h
  have hn : ¬opN w = 0 := fun e => hlow ((opN_toNat w).symm.trans (congrArg BitVec.toNat e))
  obtain hfam | hfam := hfam
  · rw [decode, opFamily_eq_of_div 0x5 hfam]
    exact if_neg hn
  · rw [decode, opFamily_eq_of_div 0x9 hfam]
    exact if_neg hn

/-- Family 8 has no operation at the low nibbles 8, 9, A, B, C, D and F (R74). The case `h_10` is the decoder's last
arm. -/
theorem decodeAlu_eq_illegal {w : Word} (h : (opN w).toNat ∈ [0x8, 0x9, 0xA, 0xB, 0xC, 0xD, 0xF]) :
    decodeAlu w = .error (.illegal w) := by
  unfold decodeAlu
  split
  case h_10 => rfl
  all_goals
    rename_i hn
    rw [hn] at h
    exact absurd h (by decide)

/-- R77 (c): family 8 holds no instruction at those low nibbles. -/
theorem decode_of_illegalAlu {w : Word} (h : illegalAlu w = true) : decode w = .error (.illegal w) := by
  rw [illegalAlu, Bool.and_eq_true, decide_eq_true_eq, List.contains_iff_mem, ← opN_toNat] at h
  obtain ⟨hfam, hlow⟩ := h
  rw [decode, opFamily_eq_of_div 0x8 hfam]
  exact decodeAlu_eq_illegal hlow

/-- Family E has no operation but at the low bytes 9E and A1 (R74). -/
theorem decodeKeypad_eq_illegal {w : Word} (h : (opKK w).toNat ∉ [0x9E, 0xA1]) :
    decodeKeypad w = .error (.illegal w) := by
  unfold decodeKeypad
  split_ifs with h9E hA1
  · exact absurd (by rw [h9E]; decide) h
  · exact absurd (by rw [hA1]; decide) h
  · rfl

/-- R77 (d): family E holds no instruction at any other low byte. -/
theorem decode_of_illegalKeypad {w : Word} (h : illegalKeypad w = true) : decode w = .error (.illegal w) := by
  rw [illegalKeypad, Bool.and_eq_true, decide_eq_true_eq, Bool.not_eq_true', List.contains_eq_mem, decide_eq_false_iff_not,
    ← opKK_toNat] at h
  obtain ⟨hfam, hlow⟩ := h
  rw [decode, opFamily_eq_of_div 0xE hfam]
  exact decodeKeypad_eq_illegal hlow

/-- Family F has no operation but at the nine low bytes of R74. -/
theorem decodeSelect_eq_illegal {w : Word}
    (h : (opKK w).toNat ∉ [0x07, 0x0A, 0x15, 0x18, 0x1E, 0x29, 0x33, 0x55, 0x65]) :
    decodeSelect w = .error (.illegal w) := by
  unfold decodeSelect
  split_ifs
  case neg => rfl
  all_goals
    rename_i hk
    exact absurd (by rw [hk]; decide) h

/-- R77 (e): family F holds no instruction at any other low byte. -/
theorem decode_of_illegalSelect {w : Word} (h : illegalSelect w = true) : decode w = .error (.illegal w) := by
  rw [illegalSelect, Bool.and_eq_true, decide_eq_true_eq, Bool.not_eq_true', List.contains_eq_mem, decide_eq_false_iff_not,
    ← opKK_toNat] at h
  obtain ⟨hfam, hlow⟩ := h
  rw [decode, opFamily_eq_of_div 0xF hfam]
  exact decodeSelect_eq_illegal hlow

/-- The decoder rejects every word of R77's list, and keeps the word. -/
theorem decode_of_illegalWord {w : Word} (h : illegalWord w = true) : decode w = .error (.illegal w) := by
  simp only [illegalWord, Bool.or_eq_true] at h
  obtain (((h | h) | h) | h) | h := h
  · exact decode_of_illegalFixed h
  · exact decode_of_illegalRegReg h
  · exact decode_of_illegalAlu h
  · exact decode_of_illegalKeypad h
  · exact decode_of_illegalSelect h

end Sys2Proof.Laws

namespace Sys2Proof.Machine

/-- A step that can fetch runs the word at PC, after what the driver scheduled: the schedule changes neither PC nor
memory (R100; log 3). -/
theorem step_of_fetchable {s : State} (hfault : s.fault = none) (hpc : s.pc.toNat ≤ 0xFFE) :
    step s = s.takeInputs.runWord (s.mem.fetchWord s.pc.toNat) := by
  have hfetch : s.takeInputs.fetch = .ok (s.mem.fetchWord s.pc.toNat) := by
    rw [State.fetch_ok _ (by rwa [State.takeInputs_pc]), State.takeInputs_mem, State.takeInputs_pc]
  rw [step, cycle, State.takeInputs_fault, hfault, hfetch]

/-- Running a word that does not decode faults with that word (R221). -/
theorem State.runWord_of_decode_error {w : Word} {e : DecodeError} (s : State) (h : decode w = .error e) :
    s.runWord w = .fault (.decodeError w) := by
  rw [State.runWord, h]
  rfl

/-- Settles O11: the step runs the fetched word, which the decoder rejects. -/
theorem illegalWordFaultsWithTheWord : Obligations.IllegalWordFaultsWithTheWord := by
  intro s hfault hpc hillegal
  rw [step_of_fetchable hfault hpc]
  exact s.takeInputs.runWord_of_decode_error (Laws.decode_of_illegalWord hillegal)

end Sys2Proof.Machine
end

section
/-! Decoding and encoding are inverse, the decoder rejects exactly R77's list, and the opcode table partitions the rest
(30_encoding.md; O1, O2, O3, O4, O6). -/

namespace Sys2Proof.Laws

/-! ### Decode of encode -/

/-- Every instruction decodes from its own word: the fields of its format are its operands, and the family with the
selector is its own arm of the decoder. -/
theorem decode_encode (i : Instr) : decode (encode i) = .ok i := by
  cases i
  case clearDisplay | ret => rfl
  case jump | call | setIndex | jumpOffset =>
    rw [encode, decode, opFamily_wordAddr, opNNN_wordAddr]
    rfl
  case skipEqImm | skipNeImm | setImm | addImm | randomAnd =>
    rw [encode, decode, opFamily_wordRegImm, opX_wordRegImm, opKK_wordRegImm]
    rfl
  case skipEqReg | skipNeReg | draw =>
    rw [encode, decode, opFamily_wordRegReg, opX_wordRegReg, opY_wordRegReg, opN_wordRegReg]
    rfl
  case assign | or | and | xor | add | sub | shiftRight | reverseSub | shiftLeft =>
    rw [encode, decode, opFamily_wordRegReg, decodeAlu, opX_wordRegReg, opY_wordRegReg, opN_wordRegReg]
    rfl
  case skipKeyPressed | skipKeyNotPressed =>
    rw [encode, decode, opFamily_wordRegImm, decodeKeypad, opX_wordRegImm, opKK_wordRegImm]
    rfl
  case getDelay | waitKey | setDelay | setSound | addIndex | setIndexGlyph | bcdStore | registerDump | registerLoad =>
    rw [encode, decode, opFamily_wordRegImm, decodeSelect, opX_wordRegImm, opKK_wordRegImm]
    rfl

/-- Settles O1: the fields of each format read back. -/
theorem decodeOfEncodeIsTheInstruction : Obligations.DecodeOfEncodeIsTheInstruction := decode_encode

/-- Settles O6: the eighteen words are the words of their instructions, and the two illegal ones are rejected by
evaluation. -/
theorem wordsOfEveryFamilyDecode : Obligations.WordsOfEveryFamilyDecode :=
  ⟨decode_encode .clearDisplay, decode_encode .ret, decode_encode (.jump 0x000), decode_encode (.call 0xFFF),
    decode_encode (.skipEqImm 0xF 0x00), decode_encode (.skipNeImm 0xA 0x7E), decode_encode (.skipEqReg 0xA 0xB),
    decode_encode (.setImm 0x0 0x00), decode_encode (.addImm 0xF 0xFF), decode_encode (.reverseSub 0xA 0xB),
    decode_encode (.skipNeReg 0xA 0xB), decode_encode (.setIndex 0x123), decode_encode (.jumpOffset 0xFFF),
    decode_encode (.randomAnd 0x0 0x00), decode_encode (.draw 0x1 0x2 0), decode_encode (.skipKeyNotPressed 0x1),
    decode_encode (.waitKey 0x1), decode_encode (.bcdStore 0x1), by decide, by decide⟩

/-! ### Encode of decode -/

/-- An ADDR word from its family. -/
theorem wordAddr_of_family {w : Word} {f : BitVec 4} (hf : opFamily w = f) : wordAddr f (opNNN w) = w :=
  hf ▸ wordAddr_fields w

/-- A REG_IMM word from its family. -/
theorem wordRegImm_of_family {w : Word} {f : BitVec 4} (hf : opFamily w = f) : wordRegImm f (opX w) (opKK w) = w :=
  hf ▸ wordRegImm_fields w

/-- A REG_SEL word from its family and selector. -/
theorem wordRegImm_of_selector {w : Word} {f : BitVec 4} {kk : Byte} (hf : opFamily w = f) (hkk : opKK w = kk) :
    wordRegImm f (opX w) kk = w :=
  hkk ▸ wordRegImm_of_family hf

/-- A DRAW word from its family. -/
theorem wordRegReg_of_family {w : Word} {f : BitVec 4} (hf : opFamily w = f) :
    wordRegReg f (opX w) (opY w) (opN w) = w :=
  hf ▸ wordRegReg_fields w

/-- A REG_REG or ALU word from its family and low nibble. -/
theorem wordRegReg_of_nibble {w : Word} {f n : BitVec 4} (hf : opFamily w = f) (hn : opN w = n) :
    wordRegReg f (opX w) (opY w) n = w :=
  hn ▸ wordRegReg_of_family hf

/-- Family 0: the two fixed words. -/
theorem encode_of_decodeFixed {w : Word} {i : Instr} (h : decodeFixed w = .ok i) : encode i = w := by
  unfold decodeFixed at h
  split_ifs at h with hclear hret
  · cases h; exact hclear.symm
  · cases h; exact hret.symm

/-- Family 8: the low nibble is the operation's. -/
theorem encode_of_decodeAlu {w : Word} {i : Instr} (hf : opFamily w = 0x8) (h : decodeAlu w = .ok i) :
    encode i = w := by
  unfold decodeAlu at h
  split at h
  case h_10 => cases h
  all_goals
    rename_i hn
    cases h
    exact wordRegReg_of_nibble hf hn

/-- Family E: the low byte is the operation's. -/
theorem encode_of_decodeKeypad {w : Word} {i : Instr} (hf : opFamily w = 0xE) (h : decodeKeypad w = .ok i) :
    encode i = w := by
  unfold decodeKeypad at h
  split_ifs at h
  all_goals
    rename_i hkk
    cases h
    exact wordRegImm_of_selector hf hkk

/-- Family F: the low byte is the operation's. -/
theorem encode_of_decodeSelect {w : Word} {i : Instr} (hf : opFamily w = 0xF) (h : decodeSelect w = .ok i) :
    encode i = w := by
  unfold decodeSelect at h
  split_ifs at h
  all_goals
    rename_i hkk
    cases h
    exact wordRegImm_of_selector hf hkk

/-- Settles O2: each arm of the decoder takes the fields of the word's own format, and the word is its fields. The case
`h_k` is family k - 1 of R74. -/
theorem encodeOfDecodeIsTheWord : Obligations.EncodeOfDecodeIsTheWord := by
  intro w i h
  unfold decode at h
  split at h
  case h_1 => exact encode_of_decodeFixed h
  case h_9 hf => exact encode_of_decodeAlu hf h
  case h_15 hf => exact encode_of_decodeKeypad hf h
  case h_16 =>
    have hf : opFamily w = 0xF := by
      simp only [imp_false] at *
      bv_omega
    exact encode_of_decodeSelect hf h
  case h_6 hf | h_10 hf =>
    split at h
    case isTrue hn => cases h; exact wordRegReg_of_nibble hf hn
    case isFalse => cases h
  case h_2 hf | h_3 hf | h_11 hf | h_12 hf => cases h; exact wordAddr_of_family hf
  case h_14 hf => cases h; exact wordRegReg_of_family hf
  case h_4 hf | h_5 hf | h_7 hf | h_8 hf | h_13 hf => cases h; exact wordRegImm_of_family hf

/-! ### The words the decoder rejects -/

/-- Family 0 rejects only words of clause (a). -/
theorem illegalFixed_of_decodeFixed {w : Word} {e : DecodeError} (hf : opFamily w = 0x0)
    (h : decodeFixed w = .error e) : illegalFixed w = true := by
  have hfam : w.toNat / 0x1000 = 0 := (opFamily_toNat w).symm.trans (congrArg BitVec.toNat hf)
  unfold decodeFixed at h
  split_ifs at h with hclear hret
  rw [illegalFixed, hfam, bne_iff_ne.mpr hclear, bne_iff_ne.mpr hret]
  rfl

/-- Families 5 and 9 reject, at a low nibble other than 0, only words of clause (b). -/
theorem illegalRegReg_of_opN_ne {w : Word} (hf : opFamily w = 0x5 ∨ opFamily w = 0x9) (hn : ¬opN w = 0) :
    illegalRegReg w = true := by
  have hfam : w.toNat / 0x1000 = 0x5 ∨ w.toNat / 0x1000 = 0x9 :=
    (opFamily_toNat w) ▸ hf.imp (congrArg BitVec.toNat) (congrArg BitVec.toNat)
  have hlow : w.toNat % 0x10 ≠ 0 := fun e => hn (BitVec.eq_of_toNat_eq ((opN_toNat w).trans e))
  simp [illegalRegReg, hfam, hlow]

/-- Family 8 rejects only words of clause (c). -/
theorem illegalAlu_of_decodeAlu {w : Word} {e : DecodeError} (hf : opFamily w = 0x8) (h : decodeAlu w = .error e) :
    illegalAlu w = true := by
  have hfam : w.toNat / 0x1000 = 0x8 := (opFamily_toNat w).symm.trans (congrArg BitVec.toNat hf)
  unfold decodeAlu at h
  split at h
  case h_10 =>
    have hlow : (opN w).toNat ∈ [0x8, 0x9, 0xA, 0xB, 0xC, 0xD, 0xF] := by
      simp only [imp_false] at *
      simp only [List.mem_cons, List.not_mem_nil, or_false]
      bv_omega
    rw [opN_toNat] at hlow
    simpa [illegalAlu, hfam] using hlow
  all_goals cases h

/-- Family E rejects only words of clause (d). -/
theorem illegalKeypad_of_decodeKeypad {w : Word} {e : DecodeError} (hf : opFamily w = 0xE)
    (h : decodeKeypad w = .error e) : illegalKeypad w = true := by
  have hfam : w.toNat / 0x1000 = 0xE := (opFamily_toNat w).symm.trans (congrArg BitVec.toNat hf)
  unfold decodeKeypad at h
  split_ifs at h
  have hlow : (opKK w).toNat ∉ [0x9E, 0xA1] := by
    simp only [List.mem_cons, List.not_mem_nil, or_false]
    bv_omega
  rw [opKK_toNat] at hlow
  simpa [illegalKeypad, hfam] using hlow

/-- Family F rejects only words of clause (e). -/
theorem illegalSelect_of_decodeSelect {w : Word} {e : DecodeError} (hf : opFamily w = 0xF)
    (h : decodeSelect w = .error e) : illegalSelect w = true := by
  have hfam : w.toNat / 0x1000 = 0xF := (opFamily_toNat w).symm.trans (congrArg BitVec.toNat hf)
  unfold decodeSelect at h
  split_ifs at h
  have hlow : (opKK w).toNat ∉ [0x07, 0x0A, 0x15, 0x18, 0x1E, 0x29, 0x33, 0x55, 0x65] := by
    simp only [List.mem_cons, List.not_mem_nil, or_false]
    bv_omega
  rw [opKK_toNat] at hlow
  simpa [illegalSelect, hfam] using hlow

/-- The decoder rejects no other word than R77's. The case `h_k` is family k - 1 of R74. -/
theorem illegalWord_of_decode_error {w : Word} {e : DecodeError} (h : decode w = .error e) : illegalWord w = true := by
  simp only [illegalWord, Bool.or_eq_true]
  unfold decode at h
  split at h
  case h_1 hf => exact .inl (.inl (.inl (.inl (illegalFixed_of_decodeFixed hf h))))
  case h_6 hf =>
    split at h
    case isTrue => cases h
    case isFalse hn => exact .inl (.inl (.inl (.inr (illegalRegReg_of_opN_ne (.inl hf) hn))))
  case h_9 hf => exact .inl (.inl (.inr (illegalAlu_of_decodeAlu hf h)))
  case h_10 hf =>
    split at h
    case isTrue => cases h
    case isFalse hn => exact .inl (.inl (.inl (.inr (illegalRegReg_of_opN_ne (.inr hf) hn))))
  case h_15 hf => exact .inl (.inr (illegalKeypad_of_decodeKeypad hf h))
  case h_16 =>
    have hf : opFamily w = 0xF := by
      simp only [imp_false] at *
      bv_omega
    exact .inr (illegalSelect_of_decodeSelect hf h)
  all_goals cases h

/-- So a word that is not on R77's list decodes. -/
theorem exists_decode_of_not_illegal {w : Word} (h : illegalWord w = false) : ∃ i, decode w = .ok i := by
  cases hd : decode w with
  | ok i => exact ⟨i, rfl⟩
  | error e => exact absurd (illegalWord_of_decode_error hd) (by simp [h])

/-- Settles O3: the decoder's error on each clause of R77, and its errors on no other word. -/
theorem decodeRejectsExactlyTheIllegalWords : Obligations.DecodeRejectsExactlyTheIllegalWords :=
  fun _ => ⟨decode_of_illegalWord, exists_decode_of_not_illegal⟩

end Sys2Proof.Laws

namespace Sys2Proof

open Laws

/-! ### The opcode table -/

/-- Two rows that fix a common bit differently share no word. -/
def OpcodeRow.Disjoint (r q : OpcodeRow) : Prop := r.pattern &&& q.mask ≠ q.pattern &&& r.mask

theorem OpcodeRow.Disjoint.not_accepts_both {r q : OpcodeRow} (h : OpcodeRow.Disjoint r q) (w : Word) :
    ¬(r.accepts w = true ∧ q.accepts w = true) := by
  rintro ⟨hr, hq⟩
  rw [OpcodeRow.accepts, beq_iff_eq] at hr hq
  apply h
  rw [← hr, ← hq, BitVec.and_assoc, BitVec.and_assoc, BitVec.and_comm r.mask]

/-- Every instruction's word is some row's. -/
theorem wellFormedWord_encode (i : Instr) : wellFormedWord (encode i) = true := by
  cases i
  case clearDisplay => exact EncodesToItsRow.clearDisplay
  case ret => exact EncodesToItsRow.ret
  case jump => exact EncodesToItsRow.jump _
  case call => exact EncodesToItsRow.call _
  case skipEqImm => exact EncodesToItsRow.skipEqImm _ _
  case skipNeImm => exact EncodesToItsRow.skipNeImm _ _
  case skipEqReg => exact EncodesToItsRow.skipEqReg _ _
  case setImm => exact EncodesToItsRow.setImm _ _
  case addImm => exact EncodesToItsRow.addImm _ _
  case assign => exact EncodesToItsRow.assign _ _
  case or => exact EncodesToItsRow.or _ _
  case and => exact EncodesToItsRow.and _ _
  case xor => exact EncodesToItsRow.xor _ _
  case add => exact EncodesToItsRow.add _ _
  case sub => exact EncodesToItsRow.sub _ _
  case shiftRight => exact EncodesToItsRow.shiftRight _ _
  case reverseSub => exact EncodesToItsRow.reverseSub _ _
  case shiftLeft => exact EncodesToItsRow.shiftLeft _ _
  case skipNeReg => exact EncodesToItsRow.skipNeReg _ _
  case setIndex => exact EncodesToItsRow.setIndex _
  case jumpOffset => exact EncodesToItsRow.jumpOffset _
  case randomAnd => exact EncodesToItsRow.randomAnd _ _
  case draw => exact EncodesToItsRow.draw _ _ _
  case skipKeyPressed => exact EncodesToItsRow.skipKeyPressed _
  case skipKeyNotPressed => exact EncodesToItsRow.skipKeyNotPressed _
  case getDelay => exact EncodesToItsRow.getDelay _
  case waitKey => exact EncodesToItsRow.waitKey _
  case setDelay => exact EncodesToItsRow.setDelay _
  case setSound => exact EncodesToItsRow.setSound _
  case addIndex => exact EncodesToItsRow.addIndex _
  case setIndexGlyph => exact EncodesToItsRow.setIndexGlyph _
  case bcdStore => exact EncodesToItsRow.bcdStore _
  case registerDump => exact EncodesToItsRow.registerDump _
  case registerLoad => exact EncodesToItsRow.registerLoad _

/-- Every row fixes the family. -/
theorem OpcodeRow.opFamily_of_accepts {r : OpcodeRow} (hr : r ∈ OpcodeRow.table) {w : Word} (h : w &&& r.mask = r.pattern) :
    opFamily w = opFamily r.pattern := by
  have hmask : opFamily r.mask = BitVec.allOnes 4 :=
    (by decide : ∀ r ∈ OpcodeRow.table, opFamily r.mask = BitVec.allOnes 4) r hr
  rw [← h, opFamily, opFamily, BitVec.extractLsb'_and, ← opFamily, ← opFamily, hmask, BitVec.and_allOnes]

/-- A row whose mask holds the low nibble fixes it. -/
theorem OpcodeRow.opN_of_accepts {r : OpcodeRow} {w : Word} (h : w &&& r.mask = r.pattern)
    (hmask : opN r.mask = BitVec.allOnes 4) : opN w = opN r.pattern := by
  rw [← h, opN, opN, BitVec.extractLsb'_and, ← opN, ← opN, hmask, BitVec.and_allOnes]

/-- A row whose mask holds the low byte fixes it. -/
theorem OpcodeRow.opKK_of_accepts {r : OpcodeRow} {w : Word} (h : w &&& r.mask = r.pattern)
    (hmask : opKK r.mask = BitVec.allOnes 8) : opKK w = opKK r.pattern := by
  rw [← h, opKK, opKK, BitVec.extractLsb'_and, ← opKK, ← opKK, hmask, BitVec.and_allOnes]

/-- The rows of each family that R77 restricts are rows of its legal words. -/
def OpcodeRow.RestrictsAsListed (r : OpcodeRow) : Prop :=
  (opFamily r.pattern = 0x0 → r.mask = BitVec.allOnes 16 ∧ (r.pattern = 0x00E0 ∨ r.pattern = 0x00EE)) ∧
    (opFamily r.pattern = 0x5 ∨ opFamily r.pattern = 0x9 → opN r.mask = BitVec.allOnes 4 ∧ opN r.pattern = 0) ∧
    (opFamily r.pattern = 0x8 →
      opN r.mask = BitVec.allOnes 4 ∧ (opN r.pattern).toNat ∉ [0x8, 0x9, 0xA, 0xB, 0xC, 0xD, 0xF]) ∧
    (opFamily r.pattern = 0xE → opKK r.mask = BitVec.allOnes 8 ∧ (opKK r.pattern).toNat ∈ [0x9E, 0xA1]) ∧
    (opFamily r.pattern = 0xF → opKK r.mask = BitVec.allOnes 8 ∧
      (opKK r.pattern).toNat ∈ [0x07, 0x0A, 0x15, 0x18, 0x1E, 0x29, 0x33, 0x55, 0x65])

theorem OpcodeRow.restrictsAsListed : ∀ r ∈ OpcodeRow.table, OpcodeRow.RestrictsAsListed r := by
  unfold OpcodeRow.RestrictsAsListed
  decide

/-- A word on R77's list is no row's: in each clause the row's own pattern would be on the list. -/
theorem OpcodeRow.not_accepts_of_illegalWord {r : OpcodeRow} (hr : r ∈ OpcodeRow.table) {w : Word}
    (h : illegalWord w = true) : r.accepts w = false := by
  refine Bool.eq_false_iff.mpr fun hacc => ?_
  rw [OpcodeRow.accepts, beq_iff_eq] at hacc
  have hfam := OpcodeRow.opFamily_of_accepts hr hacc
  obtain ⟨hfixed, hreg, halu, hkey, hsel⟩ := OpcodeRow.restrictsAsListed r hr
  simp only [illegalWord, Bool.or_eq_true] at h
  obtain (((h | h) | h) | h) | h := h
  · simp only [illegalFixed, Bool.and_eq_true, decide_eq_true_eq, bne_iff_ne] at h
    obtain ⟨⟨hzero, hclear⟩, hret⟩ := h
    obtain ⟨hmask, hpat⟩ := hfixed (hfam ▸ opFamily_eq_of_div 0x0 hzero)
    rw [hmask, BitVec.and_allOnes] at hacc
    exact hpat.elim (fun e => hclear (hacc.trans e)) fun e => hret (hacc.trans e)
  · simp only [illegalRegReg, Bool.and_eq_true, Bool.or_eq_true, decide_eq_true_eq, ← opN_toNat] at h
    obtain ⟨hf, hlow⟩ := h
    obtain ⟨hmask, hpat⟩ := hreg (hfam ▸ hf.imp (opFamily_eq_of_div 0x5) (opFamily_eq_of_div 0x9))
    exact hlow (congrArg BitVec.toNat ((OpcodeRow.opN_of_accepts hacc hmask).trans hpat))
  · rw [illegalAlu, Bool.and_eq_true, decide_eq_true_eq, List.contains_iff_mem, ← opN_toNat] at h
    obtain ⟨hf, hlow⟩ := h
    obtain ⟨hmask, hpat⟩ := halu (hfam ▸ opFamily_eq_of_div 0x8 hf)
    exact hpat (OpcodeRow.opN_of_accepts hacc hmask ▸ hlow)
  · rw [illegalKeypad, Bool.and_eq_true, decide_eq_true_eq, Bool.not_eq_true', List.contains_eq_mem,
      decide_eq_false_iff_not, ← opKK_toNat] at h
    obtain ⟨hf, hlow⟩ := h
    obtain ⟨hmask, hpat⟩ := hkey (hfam ▸ opFamily_eq_of_div 0xE hf)
    exact hlow (OpcodeRow.opKK_of_accepts hacc hmask ▸ hpat)
  · rw [illegalSelect, Bool.and_eq_true, decide_eq_true_eq, Bool.not_eq_true', List.contains_eq_mem,
      decide_eq_false_iff_not, ← opKK_toNat] at h
    obtain ⟨hf, hlow⟩ := h
    obtain ⟨hmask, hpat⟩ := hsel (hfam ▸ opFamily_eq_of_div 0xF hf)
    exact hlow (OpcodeRow.opKK_of_accepts hacc hmask ▸ hpat)

/-- The table accepts exactly the words R77 does not list: a legal word is its instruction's word, an illegal one no
row's. -/
theorem wellFormedWord_eq_not_illegalWord (w : Word) : wellFormedWord w = !illegalWord w := by
  cases h : illegalWord w with
  | false =>
    obtain ⟨i, hi⟩ := exists_decode_of_not_illegal h
    rw [← encodeOfDecodeIsTheWord w i hi]
    exact wellFormedWord_encode i
  | true => exact List.any_eq_false.mpr fun r hr => Bool.eq_false_iff.mp (OpcodeRow.not_accepts_of_illegalWord hr h)

/-- Settles O4: the rows differ pairwise in a bit both fix, and cover the legal words. -/
theorem opcodeRowsPartitionTheLegalWords : Obligations.OpcodeRowsPartitionTheLegalWords := by
  have hdisjoint : OpcodeRow.table.Pairwise OpcodeRow.Disjoint := by
    unfold OpcodeRow.Disjoint
    decide
  exact ⟨rfl, hdisjoint.imp fun h => h.not_accepts_both, wellFormedWord_eq_not_illegalWord⟩

end Sys2Proof
end

section
/-! The cycle: what a step runs, what the driver's inputs change before it, and where it faults or is suspended
(40_cycle.md, 60_exceptions.md; O7, O8, O9, O10, O12, O13, O14, O16, O18). -/

namespace Sys2Proof.Machine

/-! ### Fetch -/

/-- A fetch reads two bytes, the high one first, at any alignment (R55; D26). -/
theorem wordOfBytes_toNat (high low : Byte) : (wordOfBytes high low).toNat = high.toNat * 256 + low.toNat := by
  rw [wordOfBytes, BitVec.toNat_append, ← Nat.shiftLeft_add_eq_or_of_lt low.isLt, Nat.shiftLeft_eq]

/-- Settles O9: a fetchable PC reads the two bytes as one word. -/
theorem fetchIsBigEndian : Obligations.FetchIsBigEndian :=
  fun s hpc => ⟨_, s.fetch_ok hpc, wordOfBytes_toNat _ _⟩

/-! ### The cycle's cases (R100) -/

/-- A core whose fault is recorded answers that fault (R229). -/
theorem cycle_of_fault {s : State} {f : Fault} (hfault : s.fault = some f) : cycle s = .fault f := by
  rw [cycle, hfault]
  rfl

/-- A fetch out of memory is the cycle's fault (R222). -/
theorem cycle_of_fetch_out {s : State} (hfault : s.fault = none) (hpc : 0xFFE < s.pc.toNat) :
    cycle s = .fault (.boundsFetch s.pc) := by
  rw [cycle, hfault, State.fetch_out s hpc]
  rfl

/-- A cycle that can fetch runs the word at PC. -/
theorem cycle_of_fetchable {s : State} (hfault : s.fault = none) (hpc : s.pc.toNat ≤ 0xFFE) :
    cycle s = s.runWord (s.mem.fetchWord s.pc.toNat) := by
  rw [cycle, hfault, State.fetch_ok s hpc]

/-- Running a word that decodes is its instruction's meaning. -/
theorem State.runWord_of_decode_ok {w : Word} {i : Instr} (s : State) (h : decode w = .ok i) :
    s.runWord w = exec i s := by
  rw [State.runWord, h]

/-- A cycle that fetches an instruction's word executes the instruction. -/
theorem cycle_of_decode_ok {s : State} {i : Instr} (hfault : s.fault = none) (hpc : s.pc.toNat ≤ 0xFFE)
    (hi : decode (s.mem.fetchWord s.pc.toNat) = .ok i) : cycle s = exec i s := by
  rw [cycle_of_fetchable hfault hpc, s.runWord_of_decode_ok hi]

/-- So does a step, after what the driver scheduled. -/
theorem step_of_decode_ok {s : State} {i : Instr} (hfault : s.fault = none) (hpc : s.pc.toNat ≤ 0xFFE)
    (hi : decode (s.mem.fetchWord s.pc.toNat) = .ok i) : step s = exec i s.takeInputs := by
  rw [step_of_fetchable hfault hpc, s.takeInputs.runWord_of_decode_ok hi]

/-- Settles O7: the step executes the fetched instruction, and with nothing scheduled the inputs change nothing. -/
theorem stepRunsTheDecodedInstruction : Obligations.StepRunsTheDecodedInstruction := by
  intro s i hfault hpc hi
  have hstep : step s = exec i s.takeInputs := step_of_decode_ok hfault hpc hi
  exact ⟨hstep, fun hnil => by rw [hstep, s.takeInputs_nil hnil]⟩

/-- Settles O10: the schedule changes neither PC nor the fault record, so the cycle's fetch is out of memory. -/
theorem fetchOutsideMemoryFaults : Obligations.FetchOutsideMemoryFaults := by
  intro s hfault hpc
  have h := cycle_of_fetch_out (s := s.takeInputs) (s.takeInputs_fault.trans hfault) (by rwa [s.takeInputs_pc])
  rwa [s.takeInputs_pc] at h

/-! ### Placing a word (log 1) -/

/-- A 16-bit word is placed whole. -/
theorem State.withFetchWord_eq_placeWord (s : State) (w : Word) : s.withFetchWord 16 w.toNat = s.placeWord w := by
  rw [State.withFetchWord, Nat.mod_eq_of_lt w.isLt, BitVec.ofNat_toNat, BitVec.setWidth_eq]

theorem State.placeWord_fault (s : State) (w : Word) : (s.placeWord w).fault = none := rfl

/-- A PC that can be fetched at stays. -/
theorem State.placeWord_pc (s : State) (w : Word) (h : s.pc.toNat ≤ 0xFFE) : (s.placeWord w).pc = s.pc := by
  simp only [State.placeWord, if_pos h]

/-- A fetch that answers a word had its PC in memory, and the word is the one there. -/
theorem State.fetch_eq_ok_iff (s : State) (w : Word) :
    s.fetch = .ok w ↔ s.pc.toNat ≤ 0xFFE ∧ s.mem.fetchWord s.pc.toNat = w := by
  by_cases hpc : s.pc.toNat ≤ 0xFFE
  · simp [s.fetch_ok hpc, hpc]
  · simp [s.fetch_out (Nat.lt_of_not_le hpc), hpc]

/-- Settles O12: the placed word is what the step fetches. -/
theorem placedWordRunsNext : Obligations.PlacedWordRunsNext := by
  intro s w i hi
  rw [s.withFetchWord_eq_placeWord]
  have hfetch := s.placeWord_fetch w
  obtain ⟨hpc, hword⟩ := ((s.placeWord w).fetch_eq_ok_iff w).mp hfetch
  refine ⟨step_of_decode_ok (s.placeWord_fault w) hpc ?_, hfetch, s.placeWord_pc w⟩
  rw [hword, hi]

/-! ### The driver's inputs (R31, R196, R197; log 3) -/

/-- Each tick among the inputs counts both timers down. -/
theorem State.foldl_input_timers_toNat (s : State) (hs : List HostInput) :
    (hs.foldl State.input s).dt.toNat = s.dt.toNat - hs.count .tick ∧
      (hs.foldl State.input s).st.toNat = s.st.toNat - hs.count .tick := by
  induction hs generalizing s with
  | nil => exact ⟨rfl, rfl⟩
  | cons h hs ih =>
    obtain ⟨hdt, hst⟩ := ih (s.input h)
    rw [List.foldl_cons, hdt, hst]
    cases h with
    | tick =>
      rw [List.count_cons_self, State.input, State.tick_dt, State.tick_st, countDown_toNat, countDown_toNat]
      omega
    | keys k =>
      rw [List.count_cons_of_ne (by simp)]
      exact ⟨rfl, rfl⟩

/-- KEY is the last snapshot among the inputs, if there is one. -/
theorem State.foldl_input_key (s : State) (hs : List HostInput) :
    (hs.foldl State.input s).key = (hs.reverse.findSome? snapshotOf).getD s.key := by
  induction hs generalizing s with
  | nil => rfl
  | cons h hs ih =>
    rw [List.foldl_cons, ih, List.reverse_cons, List.findSome?_append]
    cases hs.reverse.findSome? snapshotOf with
    | some k => rfl
    | none => cases h <;> rfl

/-- What taking the inputs can change. -/
theorem State.takeInputs_same (s : State) {p : Part} (hdt : p ≠ .delay) (hst : p ≠ .sound) (hkey : ∀ k, p ≠ .key k)
    (hsched : p ≠ .schedule) : p.same s s.takeInputs := by
  rw [State.takeInputs_eq]
  cases p
  case delay => exact absurd rfl hdt
  case sound => exact absurd rfl hst
  case key k => exact absurd rfl (hkey k)
  case schedule => exact absurd rfl hsched
  all_goals rfl

/-- Settles O8: the fold over the inputs, part by part. -/
theorem inputsLandBeforeTheInstruction : Obligations.InputsLandBeforeTheInstruction := by
  intro s now later hsched
  have htake : s.takeInputs = now.foldl State.input { s with schedule := later } := by
    rw [State.takeInputs, hsched]
  obtain ⟨hdt, hst⟩ := State.foldl_input_timers_toNat { s with schedule := later } now
  rw [← htake] at hdt hst
  refine ⟨?_, hdt, hst, ?_, s.takeInputs_pc, fun p hp => ?_⟩
  · rw [htake, State.foldl_input_eq]
  · rw [htake, State.foldl_input_key]
  · refine s.takeInputs_same ?_ ?_ ?_ ?_
    · rintro rfl; cases hp
    · rintro rfl; cases hp
    · rintro k rfl; cases hp
    · rintro rfl; cases hp

/-! ### Faults -/

/-- A step() call that faults records the fault and changes nothing else. -/
theorem State.callStep_of_cycle_fault {s : State} {f : Fault} (h : cycle s = .fault f) :
    s.callStep = (.fault f, s.recordFault f) := by
  rw [State.callStep, h]

/-- Recording a fault changes no other part. -/
theorem State.recordFault_keepsBut (s : State) (f : Fault) :
    KeepsBut (fun p => p == .faultRecord) s (s.recordFault f) := by
  intro p hp
  cases p
  case faultRecord => cases hp
  all_goals rfl

/-- Settles O13: the call's own record makes the next call answer the same fault. -/
theorem faultIsPreciseAndStopsTheCore : Obligations.FaultIsPreciseAndStopsTheCore := by
  intro s f h
  have hagain := State.callStep_of_cycle_fault (cycle_of_fault (s.recordFault_fault f))
  rw [State.callStep_of_cycle_fault h]
  exact ⟨rfl, rfl, rfl, s.recordFault_keepsBut f, hagain⟩

/-- An instruction's faults are its own fault, if it has one (R227). -/
theorem exec_eq_fault_iff (i : Instr) (s : State) (f : Fault) : exec i s = .fault f ↔ ownFault i s = some f := by
  refine ⟨fun h => ?_, exec_of_ownFault_some⟩
  cases hown : ownFault i s with
  | none =>
    obtain ⟨t, ht⟩ := exec_of_ownFault_none hown
    cases h.symm.trans ht
  | some g =>
    cases h.symm.trans (exec_of_ownFault_some hown)
    rfl

/-- Settles O14: the answer is a fault exactly where the instruction has one of its own. -/
theorem instructionFaultsExactlyWhereListed : Obligations.InstructionFaultsExactlyWhereListed := exec_eq_fault_iff

/-- Settles O16: the three stages of a step exclude one another, and each has its one fault. -/
theorem stepFaultsInPriorityOrder : Obligations.StepFaultsInPriorityOrder := by
  intro s f hfault
  rcases Nat.lt_or_ge 0xFFE s.pc.toNat with hpc | hpc
  · have hle : ¬s.pc.toNat ≤ 0xFFE := Nat.not_le.mpr hpc
    rw [fetchOutsideMemoryFaults s hfault hpc, Host.Outcome.fault.injEq, eq_comm]
    simp only [hpc, hle, true_and, false_and, or_false]
  · have hlt : ¬0xFFE < s.pc.toNat := Nat.not_lt.mpr hpc
    cases hill : illegalWord (s.mem.fetchWord s.pc.toNat) with
    | true =>
      rw [illegalWordFaultsWithTheWord s hfault hpc hill, Host.Outcome.fault.injEq, eq_comm]
      simp [Laws.decode_of_illegalWord hill, hpc, hlt]
    | false =>
      obtain ⟨i, hi⟩ := Laws.exists_decode_of_not_illegal hill
      rw [step_of_decode_ok hfault hpc hi, exec_eq_fault_iff]
      simp [hi, hpc, hlt]

/-! ### Suspension (R32, R214) -/

/-- No key is found exactly when none is pressed. -/
theorem State.firstKey_eq_none_iff (s : State) : s.firstKey = none ↔ ∀ k, s.keyPressed k = false := by
  refine ⟨fun h k => ?_, State.firstKey_of_none_pressed⟩
  simpa using List.find?_eq_none.mp h k (List.mem_finRange k)

/-- The suspended condition, spelt out (R32). -/
theorem State.isSuspended_iff (s : State) :
    s.isSuspended = true ↔ s.fault = none ∧ s.pc.toNat ≤ 0xFFE ∧ (∀ k, s.keyPressed k = false) ∧
      ∃ x, decode (s.mem.fetchWord s.pc.toNat) = .ok (.waitKey x) := by
  rw [← State.firstKey_eq_none_iff]
  unfold State.isSuspended
  constructor
  · intro h
    split at h
    case h_2 => cases h
    case h_1 w hfault hfetch =>
      obtain ⟨hpc, rfl⟩ := (s.fetch_eq_ok_iff w).mp hfetch
      split at h
      case h_2 => cases h
      case h_1 x hx => exact ⟨hfault, hpc, Option.isNone_iff_eq_none.mp h, x, hx⟩
  · rintro ⟨hfault, hpc, hkey, x, hx⟩
    simp only [hfault, s.fetch_ok hpc, hx, hkey, Option.isNone_none]

/-- A suspended core's cycle leaves the state as it was (R214; log 2). -/
theorem cycle_of_isSuspended {s : State} (h : s.isSuspended = true) : cycle s = .next s := by
  obtain ⟨hfault, hpc, hkey, x, hx⟩ := s.isSuspended_iff.mp h
  rw [cycle_of_decode_ok hfault hpc hx, exec_waitKey_none (State.firstKey_of_none_pressed hkey)]

/-- A step() call replies Suspended to the suspended condition alone. -/
theorem State.callStep_fst_eq_suspended_iff (s : State) : s.callStep.1 = .suspended ↔ s.isSuspended = true := by
  constructor
  · intro h
    unfold State.callStep at h
    split at h
    case h_1 =>
      by_contra hs
      rw [if_neg hs] at h
      cases h
    all_goals cases h
  · intro h
    simp only [State.callStep, cycle_of_isSuspended h, h, if_true]

/-- Settles O18: the reply is the suspended condition, whose cycle changes nothing. -/
theorem suspendedExactlyAtAWaitKeyWithoutKeys : Obligations.SuspendedExactlyAtAWaitKeyWithoutKeys := by
  intro s
  refine ⟨s.callStep_fst_eq_suspended_iff.trans s.isSuspended_iff, fun h => ?_⟩
  rw [State.callStep, cycle_of_isSuspended (s.callStep_fst_eq_suspended_iff.mp h)]

end Sys2Proof.Machine
end

section
/-! Control transfer: Return, Jump, JumpOffset, the key skips' fault and the end of a run (41_control.md,
70_reset_and_hazards.md R255; O19, O20, O22, O24, O25, O59). -/

namespace Sys2Proof.Machine

/-- Moving PC changes nothing else. -/
theorem State.setPc_keepsAll (s : State) (w : Word) : KeepsAll s (s.setPc w) := by
  intro p
  cases p <;> rfl

/-! ### Return (R120) -/

/-- The state after a Return that pops slot j: SP at j, PC 2 past the address in it (D8). -/
def State.afterRet (s : State) (j : Fin 16) : State :=
  { s with sp := j.castSucc, pc := s.stack[j] + 2 }

/-- With j + 1 entries in use, Return answers that state. -/
theorem exec_ret_of_sp_eq {s : State} {j : Fin 16} (hj : j.val + 1 = s.sp.val) :
    exec .ret s = .next (s.afterRet j) := by
  have hsp : s.sp = j.succ := Fin.ext hj.symm
  rw [exec_ret, execRet, State.pop_ok s (by omega)]
  simp only [hsp]
  rfl

/-- A Return changes nothing but PC and SP. -/
theorem State.afterRet_keepsBut (s : State) (j : Fin 16) : KeepsBut (fun p => p == .sp) s (s.afterRet j) := by
  intro p hp
  cases p
  case sp => cases hp
  all_goals rfl

/-- Settles O19: the state a Return answers, and its own fault on an empty stack. -/
theorem returnResumesAfterTheCall : Obligations.ReturnResumesAfterTheCall := by
  intro s
  refine ⟨fun j hj => ?_, fun hsp => exec_of_ownFault_some (if_pos hsp)⟩
  exact ⟨s.afterRet j, exec_ret_of_sp_eq hj, rfl, rfl, fun _ => rfl⟩

/-- Settles O22: the Return pops the slot the Call pushed, which holds the Call's address. -/
theorem callThenReturnResumesAfterTheCall : Obligations.CallThenReturnResumesAfterTheCall := by
  intro nnn s hsp
  obtain ⟨j, hj⟩ : ∃ j : Fin 16, j.val = s.sp.val := ⟨⟨s.sp.val, hsp⟩, rfl⟩
  refine ⟨s.afterCall j nnn, (s.afterCall j nnn).afterRet j, exec_call_of_sp_eq hj nnn, exec_ret_of_sp_eq rfl,
    congrArg (· + 2) (s.afterCall_stack_same j nnn), fun p hp => ?_⟩
  cases p
  case sp => exact Fin.ext hj
  case slot k =>
    refine s.afterCall_stack_other nnn fun e => ?_
    simp [e, hj] at hp
  all_goals rfl

/-! ### Jump and JumpOffset (R121, R127) -/

/-- Jump answers the state with PC at its address. -/
theorem exec_jump_eq (nnn : Addr) (s : State) : exec (.jump nnn) s = .next (s.setPc (zextAddr nnn)) := rfl

/-- A jump to its own address leaves the state as it was (R255). -/
theorem State.setPc_zextAddr_of_eq {s : State} {nnn : Addr} (h : nnn.toNat = s.pc.toNat) :
    s.setPc (zextAddr nnn) = s := by
  have hpc : zextAddr nnn = s.pc := BitVec.eq_of_toNat_eq ((zextAddr_toNat nnn).trans h)
  rw [hpc]
  rfl

/-- Settles O20: Jump moves PC alone, and 0xFFF is above the last address a fetch allows. -/
theorem jumpSetsPcToTheAddress : Obligations.JumpSetsPcToTheAddress := by
  intro nnn s
  refine ⟨Laws.decode_encode (.jump nnn), s.setPc (zextAddr nnn), exec_jump_eq nnn s, zextAddr_toNat nnn,
    s.setPc_keepsAll _, ?_, State.setPc_zextAddr_of_eq⟩
  rintro rfl hfault
  have hout : 0xFFE < (zextAddr 0xFFF).toNat := by decide
  exact cycle_of_fetch_out hfault hout

/-- A byte is zero-extended to a word of the same value. -/
@[simp] theorem zextByte_toNat (b : Byte) : (zextByte b).toNat = b.toNat :=
  BitVec.toNat_setWidth_of_le (by decide)

/-- The target of JumpOffset is the exact sum: 0xFFF + 0xFF fits in 16 bits (D9). -/
theorem jumpOffset_target_toNat (nnn : Addr) (b : Byte) :
    (zextAddr nnn + zextByte b).toNat = nnn.toNat + b.toNat := by
  have hn := nnn.isLt
  have hb := b.isLt
  rw [BitVec.toNat_add, zextAddr_toNat, zextByte_toNat]
  exact Nat.mod_eq_of_lt (by omega)

/-- Settles O25: JumpOffset moves PC alone, to the exact sum. -/
theorem jumpOffsetAddsV0Exactly : Obligations.JumpOffsetAddsV0Exactly :=
  fun nnn s => ⟨_, exec_jumpOffset nnn s, jumpOffset_target_toNat nnn (s.reg 0), s.setPc_keepsAll _⟩

/-! ### The key skips' fault (R209) -/

/-- Settles O24: it is the own fault of both key skips. -/
theorem keyIndexAboveFifteenFaults : Obligations.KeyIndexAboveFifteenFaults :=
  fun _ _ h => ⟨exec_of_ownFault_some (if_pos h), exec_of_ownFault_some (if_pos h)⟩

/-! ### The end of a run (R255, D28; log 30) -/

/-- The end of a run, spelt out: a fetchable Jump to its own address. -/
theorem State.exists_jump_of_isEnded {s : State} (h : s.isEnded = true) :
    s.fault = none ∧ s.pc.toNat ≤ 0xFFE ∧
      ∃ nnn, decode (s.mem.fetchWord s.pc.toNat) = .ok (.jump nnn) ∧ nnn.toNat = s.pc.toNat := by
  unfold State.isEnded at h
  split at h
  case h_2 => cases h
  case h_1 w hfault hfetch =>
    obtain ⟨hpc, rfl⟩ := (s.fetch_eq_ok_iff w).mp hfetch
    split at h
    case h_2 => cases h
    case h_1 nnn hi => exact ⟨hfault, hpc, nnn, hi, beq_iff_eq.mp h⟩

/-- A tick changes nothing the end of a run depends on. -/
theorem State.tick_isEnded (s : State) : s.tick.isEnded = s.isEnded := rfl

/-- Settles O59: the Jump leads to itself, and it is no WaitKey. -/
theorem endedRunLoopsInPlace : Obligations.EndedRunLoopsInPlace := by
  intro s h
  obtain ⟨hfault, hpc, nnn, hi, hself⟩ := State.exists_jump_of_isEnded h
  have hcycle : cycle s = .next s := by
    rw [cycle_of_decode_ok hfault hpc hi, exec_jump_eq, State.setPc_zextAddr_of_eq hself]
  have hrun : ¬s.isSuspended = true := fun hs => by
    obtain ⟨-, -, -, x, hx⟩ := s.isSuspended_iff.mp hs
    cases hi.symm.trans hx
  refine ⟨hcycle, ?_, s.tick_isEnded.trans h⟩
  rw [State.callStep, hcycle]
  simp only [hrun, if_false, Bool.false_eq_true]

end Sys2Proof.Machine
end

section
/-! Frames: every instruction changes at most the parts mayChange lists (10_state.md R22 to R31; O46 to O50). A frame is
built along the updates an instruction makes, one rule per update. -/

namespace Sys2Proof.Machine

/-! ### One rule per update -/

section Rules

variable {c : Part → Bool} {s t : State}

theorem KeepsBut.refl (c : Part → Bool) (s : State) : KeepsBut c s s := by
  intro p _
  cases p <;> rfl

/-- PC is no part, so moving it is always allowed. -/
theorem KeepsBut.setPc (h : KeepsBut c s t) (w : Word) : KeepsBut c s (t.setPc w) := by
  intro p hp
  have hkeep := h p hp
  cases p <;> exact hkeep

theorem KeepsBut.setReg (h : KeepsBut c s t) {r : Reg} (hr : c (.reg r) = true) (b : Byte) :
    KeepsBut c s (t.setReg r b) := by
  intro p hp
  have hkeep := h p hp
  cases p
  case reg q =>
    have hq : q ≠ r := fun e => by simp [e, hr] at hp
    exact (t.setReg_reg r b q).trans ((if_neg hq).trans hkeep)
  all_goals exact hkeep

theorem KeepsBut.loadRegs (h : KeepsBut c s t) (ks : List Nat) (hks : ∀ k ∈ ks, c (.reg (Fin.ofNat 16 k)) = true) :
    KeepsBut c s (t.loadRegs ks) := by
  induction ks generalizing t with
  | nil => exact h
  | cons k ks ih =>
    exact ih (h.setReg (hks k (by simp)) _) fun j hj => hks j (by simp [hj])

theorem KeepsBut.setI (h : KeepsBut c s t) (hi : c .index = true) (w : Word) : KeepsBut c s (t.setI w) := by
  intro p hp
  have hkeep := h p hp
  cases p
  case index => simp [hi] at hp
  all_goals exact hkeep

theorem KeepsBut.setDt (h : KeepsBut c s t) (hdt : c .delay = true) (b : Byte) : KeepsBut c s (t.setDt b) := by
  intro p hp
  have hkeep := h p hp
  cases p
  case delay => simp [hdt] at hp
  all_goals exact hkeep

theorem KeepsBut.setSt (h : KeepsBut c s t) (hst : c .sound = true) (b : Byte) : KeepsBut c s (t.setSt b) := by
  intro p hp
  have hkeep := h p hp
  cases p
  case sound => simp [hst] at hp
  all_goals exact hkeep

theorem KeepsBut.countDraw (h : KeepsBut c s t) (hd : c .draws = true) : KeepsBut c s t.countDraw := by
  intro p hp
  have hkeep := h p hp
  cases p
  case draws => simp [hd] at hp
  all_goals exact hkeep

/-- A memory that reads as before wherever bytes may not change. -/
theorem KeepsBut.setMem (h : KeepsBut c s t) {m : Memory} (hm : ∀ a, c (.byte a) = false → m.read a = t.mem.read a) :
    KeepsBut c s (t.setMem m) := by
  intro p hp
  have hkeep := h p hp
  cases p
  case byte a => exact (hm a hp).trans hkeep
  all_goals exact hkeep

/-- A framebuffer that reads as before wherever pixels may not change. -/
theorem KeepsBut.setFb (h : KeepsBut c s t) {fb : Framebuffer}
    (hfb : ∀ qx qy, c (.pixel qx qy) = false → fb.get qx qy = t.fb.get qx qy) : KeepsBut c s (t.setFb fb) := by
  intro p hp
  have hkeep := h p hp
  cases p
  case pixel qx qy => exact (hfb qx qy hp).trans hkeep
  all_goals exact hkeep

/-- A larger set of parts that may change. -/
theorem KeepsBut.mono {d : Part → Bool} (h : KeepsBut c s t) (hcd : ∀ p, d p = false → c p = false) :
    KeepsBut d s t :=
  fun p hp => h p (hcd p hp)

end Rules

/-! ### Every instruction -/

/-- All Return can do (R120): fault on an empty stack, or pop the slot below SP. -/
theorem exec_ret_cases (s : State) : (s.sp.val = 0 ∧ exec .ret s = .fault (.stackUnderflow s.pc)) ∨
    ∃ j : Fin 16, j.val + 1 = s.sp.val ∧ exec .ret s = .next (s.afterRet j) := by
  by_cases h : s.sp.val = 0
  · exact .inl ⟨h, exec_of_ownFault_some (if_pos h)⟩
  · have hj : s.sp.val - 1 + 1 = s.sp.val := Nat.succ_pred_eq_of_ne_zero h
    exact .inr ⟨⟨s.sp.val - 1, by omega⟩, hj, exec_ret_of_sp_eq hj⟩

/-- All Call can do (R122): fault on a full stack, or push into the slot at SP. -/
theorem exec_call_cases (nnn : Addr) (s : State) :
    (s.sp.val = 16 ∧ exec (.call nnn) s = .fault (.stackOverflow s.pc)) ∨
      ∃ j : Fin 16, j.val = s.sp.val ∧ exec (.call nnn) s = .next (s.afterCall j nnn) := by
  by_cases h : s.sp.val = 16
  · exact .inl ⟨h, exec_of_ownFault_some (if_pos h)⟩
  · exact .inr ⟨⟨s.sp.val, by omega⟩, rfl, exec_call_of_sp_eq rfl nnn⟩

/-- A Return that completes popped a slot. -/
theorem exec_ret_next {s t : State} (h : exec .ret s = .next t) : ∃ j, t = s.afterRet j := by
  obtain ⟨-, hf⟩ | ⟨j, -, hn⟩ := exec_ret_cases s
  · cases h.symm.trans hf
  · cases h.symm.trans hn
    exact ⟨j, rfl⟩

/-- A Call that completes pushed into the slot at SP. -/
theorem exec_call_next {nnn : Addr} {s t : State} (h : exec (.call nnn) s = .next t) :
    ∃ j : Fin 16, j.val = s.sp.val ∧ t = s.afterCall j nnn := by
  obtain ⟨-, hf⟩ | ⟨j, hj, hn⟩ := exec_call_cases nnn s
  · cases h.symm.trans hf
  · cases h.symm.trans hn
    exact ⟨j, hj, rfl⟩

/-- Bytes stored from I on leave every byte outside their range (R58). -/
theorem State.writeBytes_keepsBut (s : State) {c : Part → Bool} (bs : List Byte)
    (hc : ∀ a, c (.byte a) = false → a < s.i.toNat ∨ s.i.toNat + bs.length ≤ a) :
    KeepsBut c s (s.setMem (s.mem.writeBytes s.i.toNat bs)) :=
  (KeepsBut.refl c s).setMem fun a ha => s.mem.read_writeBytes_outside s.i.toNat bs a (hc a ha)

/-- A completed instruction changes at most the parts listed for it: the frame of each of its updates. -/
theorem exec_keepsBut {i : Instr} {s t : State} (h : exec i s = .next t) : KeepsBut (mayChange i s) s t := by
  have hrefl := KeepsBut.refl (mayChange i s) s
  cases i
  case clearDisplay =>
    cases h
    exact (hrefl.setFb fun _ _ hq => by cases hq).setPc _
  case ret =>
    obtain ⟨j, rfl⟩ := exec_ret_next h
    refine (s.afterRet_keepsBut j).mono fun p hp => ?_
    cases p
    case sp => cases hp
    all_goals rfl
  case call nnn =>
    obtain ⟨j, hj, rfl⟩ := exec_call_next h
    refine (s.afterCall_keepsBut j nnn).mono fun p hp => ?_
    cases p
    case sp => cases hp
    case slot k =>
      have hk : k ≠ j := fun e => by simp [mayChange, e, hj] at hp
      simpa using hk
    all_goals rfl
  case jump | jumpOffset | skipEqImm | skipNeImm | skipEqReg | skipNeReg =>
    cases h
    exact hrefl.setPc _
  case skipKeyPressed | skipKeyNotPressed =>
    cases h.symm.trans (exec_of_skipCondition rfl (ownFault_of_exec_next h))
    exact hrefl.setPc _
  case setImm x _ | addImm x _ | assign x _ | or x _ | and x _ | xor x _ | getDelay x =>
    cases h
    exact (hrefl.setReg (r := x) (by simp [mayChange, writesReg]) _).setPc _
  case randomAnd x _ =>
    cases h
    exact ((hrefl.countDraw rfl).setReg (r := x) (by simp [mayChange, writesReg]) _).setPc _
  case add x _ | sub x _ | shiftRight x _ | reverseSub x _ | shiftLeft x _ =>
    cases h
    exact ((hrefl.setReg (r := x) (by simp [mayChange, writesReg]) _).setReg (r := VF)
      (by simp [mayChange, writesReg]) _).setPc _
  case setIndex | addIndex | setIndexGlyph =>
    cases h
    exact (hrefl.setI rfl _).setPc _
  case setDelay =>
    cases h
    exact (hrefl.setDt rfl _).setPc _
  case setSound =>
    cases h
    exact (hrefl.setSt rfl _).setPc _
  case waitKey x =>
    cases hk : s.firstKey with
    | none => cases h.symm.trans (exec_waitKey_none hk); exact hrefl
    | some k =>
      cases h.symm.trans (exec_waitKey_some x hk)
      exact (hrefl.setReg (r := x) (by simp [mayChange, writesReg]) _).setPc _
  case draw x y n =>
    obtain ⟨hpixels, -⟩ := drawSprite_drawn s (s.reg x) (s.reg y) n.val (by omega)
    rw [State.eq_of_inRange_next h]
    refine ((hrefl.setFb fun qx qy hq => ?_).setReg (r := VF) rfl _).setPc _
    have hbit : spriteBit s (s.reg x) (s.reg y) n.val qx qy = false := hq
    rw [hpixels, hbit, Bool.xor_false]
  case bcdStore x =>
    rw [State.eq_of_inRange_next h]
    refine (s.writeBytes_keepsBut (bcdDigits (s.reg x)) fun a ha => ?_).setPc _
    have hout : ¬(s.i.toNat ≤ a ∧ a < s.i.toNat + 3) := of_decide_eq_false ha
    show a < s.i.toNat ∨ s.i.toNat + 3 ≤ a
    omega
  case registerDump x =>
    rw [State.eq_of_inRange_next h]
    refine (s.writeBytes_keepsBut (s.regsUpTo x) fun a ha => ?_).setPc _
    have hout : ¬(s.i.toNat ≤ a ∧ a ≤ s.i.toNat + x.val) := of_decide_eq_false ha
    rw [State.regsUpTo_length]
    omega
  case registerLoad x =>
    rw [State.eq_of_inRange_next h]
    refine (hrefl.loadRegs _ fun k hk => decide_eq_true ?_).setPc _
    have hkx : k < x.val + 1 := List.mem_range.mp hk
    exact Fin.le_def.mpr (Nat.le_trans (Nat.mod_le k 16) (Nat.le_of_lt_succ hkx))

/-- Settles O46: the frame of every instruction, here its register writes, and the count of draws for RandomAnd. -/
theorem aluInstructionsChangeOnlyTheirRegisters : Obligations.AluInstructionsChangeOnlyTheirRegisters :=
  fun _ _ _ _ h => exec_keepsBut h

/-- Settles O47: the frame of every instruction, here PC alone, or the slot and SP of a Call or Return. -/
theorem controlInstructionsChangeOnlyTheStack : Obligations.ControlInstructionsChangeOnlyTheStack :=
  fun _ _ _ _ h => exec_keepsBut h

/-- Settles O48: the frame of every instruction, here the one write of I, a timer or registers. -/
theorem transferInstructionsChangeOnlyTheirTarget : Obligations.TransferInstructionsChangeOnlyTheirTarget :=
  fun _ _ _ _ h => exec_keepsBut h

/-- Settles O49: the frame of every instruction, here the bytes stored from I on. -/
theorem storesChangeOnlyTheirBytes : Obligations.StoresChangeOnlyTheirBytes :=
  fun _ _ _ _ h => exec_keepsBut h

/-- Settles O50: the frame of every instruction, here the pixels under a set sprite bit, and VF. -/
theorem displayInstructionsChangeOnlyPixelsAndFlag : Obligations.DisplayInstructionsChangeOnlyPixelsAndFlag :=
  fun _ _ _ _ h => exec_keepsBut h

end Sys2Proof.Machine
end

section
/-! What the register loads and the ALU write (42_alu.md; O26 to O32). -/

namespace Sys2Proof.Machine

/-! ### Instructions that write one register -/

/-- An instruction that writes `b` to Vx and advances: PC, Vx, and no other register. -/
theorem exec_setReg_spec {i : Instr} {s : State} {x : Reg} {b : Byte} (h : exec i s = .next (s.setReg x b).advance)
    {P : Byte → Prop} (hb : P b) :
    ∃ t, exec i s = .next t ∧ t.pc = s.pc + 2 ∧ P (t.reg x) ∧ ∀ r, r ≠ x → t.reg r = s.reg r := by
  refine ⟨_, h, rfl, ?_, fun r hr => ?_⟩
  · rwa [State.advance_reg, State.setReg_reg, if_pos rfl]
  · rw [State.advance_reg, State.setReg_reg, if_neg hr]

/-- Settles O26: the byte each of the three writes. -/
theorem loadsAndImmediateAddWriteVx : Obligations.LoadsAndImmediateAddWriteVx := by
  intro s x y kk
  exact ⟨exec_setReg_spec (exec_setImm x kk s) (P := (· = kk)) rfl,
    exec_setReg_spec (exec_addImm x kk s) (P := fun b => b.toNat = ((s.reg x).toNat + kk.toNat) % 256)
      (BitVec.toNat_add _ _),
    exec_setReg_spec (exec_assign x y s) (P := (· = s.reg y)) rfl⟩

/-- An instruction that writes `b` to Vx and advances, `b` described bit by bit and at x = y. -/
theorem exec_setReg_bits {i : Instr} {s : State} {x y : Reg} {b c : Byte} {f : Nat → Bool}
    (h : exec i s = .next (s.setReg x b).advance) (hbits : ∀ k, b.getLsbD k = f k) (hsame : x = y → b = c) :
    ∃ t, exec i s = .next t ∧ t.pc = s.pc + 2 ∧ (∀ r, r ≠ x → t.reg r = s.reg r) ∧
      (∀ k, (t.reg x).getLsbD k = f k) ∧ (x = y → t.reg x = c) := by
  obtain ⟨t, ht, hpc, ⟨hb, hc⟩, hother⟩ :=
    exec_setReg_spec h (P := fun b => (∀ k, b.getLsbD k = f k) ∧ (x = y → b = c)) ⟨hbits, hsame⟩
  exact ⟨t, ht, hpc, hother, hb, hc⟩

/-- Settles O27: the bits of each combination, and the combination of a byte with itself. -/
theorem bitwiseOperationsWorkBitByBit : Obligations.BitwiseOperationsWorkBitByBit := by
  intro s x y
  refine ⟨exec_setReg_bits (exec_or x y s) (fun _ => BitVec.getLsbD_or) ?_,
    exec_setReg_bits (exec_and x y s) (fun _ => BitVec.getLsbD_and) ?_,
    exec_setReg_bits (exec_xor x y s) (fun _ => BitVec.getLsbD_xor) ?_⟩
  · rintro rfl
    exact BitVec.or_self
  · rintro rfl
    exact BitVec.and_self
  · rintro rfl
    exact BitVec.xor_self

/-- Settles O31: one byte of the random source, masked. -/
theorem randomAndDrawsOneFreeByte : Obligations.RandomAndDrawsOneFreeByte := by
  intro s x kk
  have hx : (s.countDraw.setReg x (Config.randByte s.draws &&& kk)).advance.reg x = Config.randByte s.draws &&& kk := by
    rw [State.advance_reg, State.setReg_reg, if_pos rfl]
  refine ⟨_, exec_randomAnd x kk s, rfl, rfl, fun b => ?_, ?_, ?_, fun r hr => ?_⟩
  · exact (congrArg (·.getLsbD b) hx).trans BitVec.getLsbD_and
  · rintro rfl
    exact hx.trans BitVec.and_zero
  · rintro rfl
    exact hx.trans BitVec.and_allOnes
  · exact (s.countDraw.setReg_reg x _ r).trans (if_neg hr)

/-! ### Instructions that write a result and a flag (R106, R140) -/

/-- A flag is 1 or 0. -/
@[simp] theorem flagByte_toNat (b : Bool) : (flagByte b).toNat = if b then 1 else 0 := by
  cases b <;> rfl

/-- The carry as R140 states it. -/
theorem carryFlag_toNat (a b : Byte) : (carryFlag a b).toNat = if 255 < a.toNat + b.toNat then 1 else 0 := by
  simp [carryFlag]

/-- The flag of a subtraction is 0 exactly on a borrow. -/
theorem notBorrowFlag_toNat (p q : Byte) : (notBorrowFlag p q).toNat = if p.toNat < q.toNat then 0 else 1 := by
  rw [notBorrowFlag, flagByte_toNat]
  by_cases h : p.toNat < q.toNat
  · simp [h]
  · simp [h, Nat.le_of_not_lt h]

/-- A difference modulo 256 as an integer. -/
theorem toNat_sub_eq_emod (p q : Byte) : ((p - q).toNat : Int) = (p.toNat - q.toNat : Int) % 256 := by
  have hp := p.isLt
  have hq := q.isLt
  rw [BitVec.toNat_sub]
  omega

/-- The bit a right shift loses is the remainder by 2 (R149). -/
theorem lowBitFlag_toNat (a : Byte) : (lowBitFlag a).toNat = a.toNat % 2 := by
  rw [lowBitFlag, flagByte_toNat, BitVec.getLsbD, Nat.testBit_zero]
  rcases Nat.mod_two_eq_zero_or_one a.toNat with h | h <;> simp [h]

/-- The bit a left shift loses is the quotient by 128 (R151). -/
theorem highBitFlag_toNat (a : Byte) : (highBitFlag a).toNat = a.toNat / 128 := by
  have ha := a.isLt
  rw [highBitFlag, flagByte_toNat, BitVec.getLsbD, Nat.testBit_eq_decide_div_mod_eq]
  have hle : a.toNat / 128 = 0 ∨ a.toNat / 128 = 1 := by omega
  rcases hle with h | h <;> simp [h]

/-- An instruction that writes a result and a flag and advances: PC, the result where x is not 15, the flag, and no
other register (D17). -/
theorem exec_writeWithFlag_spec {i : Instr} {s : State} {x : Reg} {a f : Byte}
    (h : exec i s = .next (s.writeWithFlag x a f)) {P : Byte → Prop} {n : Nat} (ha : P a) (hf : f.toNat = n) :
    ∃ t, exec i s = .next t ∧ t.pc = s.pc + 2 ∧ (x ≠ VF → P (t.reg x)) ∧ (t.reg VF).toNat = n ∧
      ∀ r, r ≠ x → r ≠ VF → t.reg r = s.reg r := by
  refine ⟨_, h, rfl, fun hx => ?_, ?_, fun r hrx hr => ?_⟩
  · rwa [State.writeWithFlag_reg, if_neg hx, if_pos rfl]
  · rw [State.writeWithFlag_reg, if_pos rfl, hf]
  · rw [State.writeWithFlag_reg, if_neg hr, if_neg hrx]

/-- Settles O28: the sum and the carry. -/
theorem addWritesSumAndCarry : Obligations.AddWritesSumAndCarry := fun s x y =>
  exec_writeWithFlag_spec (exec_add x y s) (P := fun b => b.toNat = ((s.reg x).toNat + (s.reg y).toNat) % 256)
    (BitVec.toNat_add _ _) (carryFlag_toNat _ _)

/-- Settles O29: the two differences, each with its borrow. -/
theorem subtractionsWriteDifferenceAndNotBorrow : Obligations.SubtractionsWriteDifferenceAndNotBorrow := fun s x y =>
  ⟨exec_writeWithFlag_spec (exec_sub x y s)
      (P := fun b => (b.toNat : Int) = ((s.reg x).toNat - (s.reg y).toNat : Int) % 256)
      (toNat_sub_eq_emod _ _) (notBorrowFlag_toNat _ _),
    exec_writeWithFlag_spec (exec_reverseSub x y s)
      (P := fun b => (b.toNat : Int) = ((s.reg y).toNat - (s.reg x).toNat : Int) % 256)
      (toNat_sub_eq_emod _ _) (notBorrowFlag_toNat _ _)⟩

/-- Settles O30: the source halved or doubled, and the bit it loses. -/
theorem shiftsMoveByOneAndKeepTheLostBit : Obligations.ShiftsMoveByOneAndKeepTheLostBit := by
  intro s x y a ha
  have hsrc : (s.shiftSource x y).toNat = a := ha.symm
  have hhalf : (s.shiftSource x y >>> 1).toNat = a / 2 := by
    rw [BitVec.toNat_ushiftRight, hsrc, Nat.shiftRight_eq_div_pow]
  have hdouble : (s.shiftSource x y <<< 1).toNat = 2 * a % 256 := by
    rw [BitVec.toNat_shiftLeft, hsrc, Nat.shiftLeft_eq, Nat.mul_comm]
  exact ⟨exec_writeWithFlag_spec (exec_shiftRight x y s) (P := fun b => b.toNat = a / 2) hhalf
      ((lowBitFlag_toNat _).trans (congrArg (· % 2) hsrc)),
    exec_writeWithFlag_spec (exec_shiftLeft x y s) (P := fun b => b.toNat = 2 * a % 256) hdouble
      ((highBitFlag_toNat _).trans (congrArg (· / 128) hsrc))⟩

/-- A subtraction of a register from itself clears it, without a borrow. -/
theorem exec_sub_self_spec {i : Instr} {s : State} {x : Reg}
    (h : exec i s = .next (s.writeWithFlag x (s.reg x - s.reg x) (notBorrowFlag (s.reg x) (s.reg x)))) :
    ∃ t, exec i s = .next t ∧ (x ≠ VF → t.reg x = 0) ∧ t.reg VF = 1 := by
  have hflag : (notBorrowFlag (s.reg x) (s.reg x)).toNat = 1 := by
    rw [notBorrowFlag_toNat, if_neg (Nat.lt_irrefl _)]
  obtain ⟨t, ht, -, hx, hvf, -⟩ := exec_writeWithFlag_spec h (P := (· = 0)) (BitVec.sub_self _) hflag
  exact ⟨t, ht, hx, BitVec.eq_of_toNat_eq hvf⟩

/-- Settles O32: the general results at x = y. -/
theorem sameRegisterIsReadOnce : Obligations.SameRegisterIsReadOnce := by
  intro s x
  refine ⟨?_, exec_sub_self_spec (exec_sub x x s), exec_sub_self_spec (exec_reverseSub x x s), ?_⟩
  · obtain ⟨-, -, t, ht, -, -, -, hzero⟩ := bitwiseOperationsWorkBitByBit s x x
    exact ⟨t, ht, hzero rfl⟩
  · obtain ⟨t, ht, -, hsum, -⟩ := addWritesSumAndCarry s x x
    refine ⟨t, ht, fun hx => ?_⟩
    rw [hsum hx, Nat.two_mul]

end Sys2Proof.Machine
end

section
/-! The index register, memory transfers and the timers (43_index_memory.md, 44_timers.md; O34 to O40). -/

namespace Sys2Proof.Machine

/-- Settles O34: the sum is that of 16-bit words. -/
theorem addIndexWrapsAtSixteenBits : Obligations.AddIndexWrapsAtSixteenBits := by
  intro s x
  refine exec_setI_spec (exec_addIndex x s) ?_
  rw [BitVec.toNat_add, zextByte_toNat]

/-! ### Stores (R174, R175) -/

/-- Bytes stored from I on, in range, read back in order. -/
theorem State.read_writeBytes_index (s : State) {bs : List Byte} (hlen : s.i.toNat + bs.length ≤ 0x1000) {k : Nat}
    (hk : k < bs.length) : (s.mem.writeBytes s.i.toNat bs).read (s.i.toNat + k) = bs.getD k 0 := by
  rw [Memory.read_writeBytes _ _ _ hlen, if_pos (by omega), Nat.add_sub_cancel_left]

/-- The digits of a byte are its quotients and remainders, none of them reduced. -/
theorem bcdDigits_toNat (b : Byte) :
    ((bcdDigits b).getD 0 0).toNat = b.toNat / 100 ∧ ((bcdDigits b).getD 1 0).toNat = b.toNat / 10 % 10 ∧
      ((bcdDigits b).getD 2 0).toNat = b.toNat % 10 := by
  have hb := b.isLt
  exact ⟨(BitVec.toNat_ofNat _ _).trans (Nat.mod_eq_of_lt (by omega)),
    (BitVec.toNat_ofNat _ _).trans (Nat.mod_eq_of_lt (by omega)),
    (BitVec.toNat_ofNat _ _).trans (Nat.mod_eq_of_lt (by omega))⟩

/-- In range, BcdStore answers the state with the three digits stored. -/
theorem exec_bcdStore_of_le {s : State} {x : Reg} (h : s.i.toNat + 2 ≤ 0xFFF) :
    exec (.bcdStore x) s = .next (s.setMem (s.mem.writeBytes s.i.toNat (bcdDigits (s.reg x)))).advance :=
  s.inRange_ok _ (.inr (by omega))

/-- Settles O35: the stored digits read back, and compose to the byte again. -/
theorem bcdStoreWritesThreeDigits : Obligations.BcdStoreWritesThreeDigits := by
  intro s x h
  have hlen : s.i.toNat + (bcdDigits (s.reg x)).length ≤ 0x1000 := Nat.succ_le_succ h
  have hread : ∀ k < 3, (s.mem.writeBytes s.i.toNat (bcdDigits (s.reg x))).read (s.i.toNat + k)
      = (bcdDigits (s.reg x)).getD k 0 := fun k hk => s.read_writeBytes_index hlen hk
  obtain ⟨hhundreds, htens, hones⟩ := bcdDigits_toNat (s.reg x)
  rw [← hread 0 (by decide), Nat.add_zero] at hhundreds
  rw [← hread 1 (by decide)] at htens
  rw [← hread 2 (by decide)] at hones
  have hb := (s.reg x).isLt
  refine ⟨_, exec_bcdStore_of_le h, rfl, rfl, hhundreds, htens, hones, ?_, ?_⟩
  · exact hhundreds.trans_le (by omega)
  · simp only [State.advance_mem, State.setMem_mem]
    omega

/-- In range, RegisterDump answers the state with V0..Vx stored. -/
theorem exec_registerDump_of_le {s : State} {x : Reg} (h : s.i.toNat + x.val ≤ 0xFFF) :
    exec (.registerDump x) s = .next (s.setMem (s.mem.writeBytes s.i.toNat (s.regsUpTo x))).advance :=
  s.inRange_ok _ (.inr (by omega))

/-- Settles O36: the stored registers read back. -/
theorem registerDumpCopiesRegistersToMemory : Obligations.RegisterDumpCopiesRegistersToMemory := by
  intro s x h
  refine ⟨_, exec_registerDump_of_le h, rfl, rfl, fun k hk => ?_⟩
  have hlen : s.i.toNat + (s.regsUpTo x).length ≤ 0x1000 := by rw [s.regsUpTo_length]; omega
  have hkx : k.val < (s.regsUpTo x).length := by rw [s.regsUpTo_length]; exact Nat.lt_succ_of_le hk
  exact (s.read_writeBytes_index hlen hkx).trans (s.regsUpTo_getD x k hk)

/-! ### RegisterLoad (R176) -/

/-- In range, RegisterLoad answers the state with V0..Vx loaded. -/
theorem exec_registerLoad_of_le {s : State} {x : Reg} (h : s.i.toNat + x.val ≤ 0xFFF) :
    exec (.registerLoad x) s = .next (s.loadRegs (List.range (x.val + 1))).advance :=
  s.inRange_ok _ (.inr (by omega))

/-- Loading registers keeps I. -/
@[simp] theorem State.loadRegs_i (s : State) (ks : List Nat) : (s.loadRegs ks).i = s.i := by
  rw [State.loadRegs_eq]

/-- Settles O37: each register the load lists is the byte at its place. -/
theorem registerLoadCopiesMemoryToRegisters : Obligations.RegisterLoadCopiesMemoryToRegisters := by
  intro s x h
  refine ⟨_, exec_registerLoad_of_le h, ?_, ?_, fun r => ?_⟩
  · rw [State.advance_pc, State.loadRegs_pc]
  · rw [State.advance_i, State.loadRegs_i]
  · have hlt : ∀ k ∈ List.range (x.val + 1), k < 16 := fun k hk => by
      have hkx := List.mem_range.mp hk
      omega
    have hmem : r.val ∈ List.range (x.val + 1) ↔ r ≤ x := List.mem_range.trans Nat.lt_succ_iff
    rw [State.advance_reg, s.loadRegs_reg _ hlt]
    exact if_congr hmem rfl rfl

/-- Out of range, with the first bad address (R170; D10). -/
theorem rangeFault_of_lt {s : State} {n : Nat} (h : 0xFFF < s.i.toNat + n) :
    rangeFault s (n + 1) = some (.boundsIndex (max s.i.toNat 0x1000)) :=
  if_pos ⟨n.succ_pos, by omega⟩

/-- Settles O38: the load reads back what the dump stored, since I and memory are kept in between; out of range both
have the same own fault. -/
theorem dumpThenLoadRestoresRegisters : Obligations.DumpThenLoadRestoresRegisters := by
  intro s x others
  refine ⟨fun h => ?_, fun h => ?_⟩
  · obtain ⟨t, ht, -, hi, hdump⟩ := registerDumpCopiesRegistersToMemory s x h
    have hrange : t.i.toNat + x.val ≤ 0xFFF := by rwa [hi]
    obtain ⟨u, hu, -, -, hload⟩ := registerLoadCopiesMemoryToRegisters { t with v := others } x hrange
    refine ⟨t, u, ht, hu, fun r hr => ?_⟩
    calc u.reg r = t.mem.read (t.i.toNat + r.val) := (hload r).trans (if_pos hr)
      _ = t.mem.read (s.i.toNat + r.val) := by rw [hi]
      _ = s.reg r := hdump r hr
  · exact ⟨exec_of_ownFault_some (i := .registerDump x) (rangeFault_of_lt h),
      exec_of_ownFault_some (i := .registerLoad x) (s := { s with v := others }) (rangeFault_of_lt h)⟩

/-- BoundsFault(Index) is the own fault of a range check on the bytes touched. -/
theorem rangeFault_of_ownFault {i : Instr} {s : State} {a : Nat} (h : ownFault i s = some (.boundsIndex a)) :
    rangeFault s (bytesTouched i) = some (.boundsIndex a) := by
  cases i
  case draw | bcdStore | registerDump | registerLoad => exact h
  case call | ret | skipKeyPressed | skipKeyNotPressed =>
    simp only [ownFault] at h
    split at h
    · cases h
    · cases h
  all_goals cases h

/-- Settles O39: max(I, 0x1000) is the first address from I that is above 0xFFF. -/
theorem indexFaultReportsTheFirstBadAddress : Obligations.IndexFaultReportsTheFirstBadAddress := by
  intro i s a h
  have hrange := rangeFault_of_ownFault ((exec_eq_fault_iff i s _).mp h)
  unfold rangeFault at hrange
  split at hrange
  case isFalse => cases hrange
  case isTrue hbad =>
    obtain ⟨hpos, hout⟩ := hbad
    cases hrange
    exact ⟨max s.i.toNat 0x1000 - s.i.toNat, by omega, by omega, by omega, fun j hj => by omega⟩

/-! ### Timers (R190 to R192) -/

/-- Settles O40: each is one write and the default advance. -/
theorem timerInstructionsMoveOneByte : Obligations.TimerInstructionsMoveOneByte := by
  intro s x
  refine ⟨⟨_, exec_getDelay x s, rfl, ?_, ((KeepsBut.refl _ s).setReg (by simp) _).setPc _⟩,
    ⟨_, exec_setDelay x s, rfl, rfl, ((KeepsBut.refl _ s).setDt rfl _).setPc _⟩,
    ⟨_, exec_setSound x s, rfl, rfl, ((KeepsBut.refl _ s).setSt rfl _).setPc _⟩⟩
  rw [State.advance_reg, State.setReg_reg, if_pos rfl]

end Sys2Proof.Machine
end

section
/-! Draw: the whole sprite XORed at once, and the second draw that undoes it (45_display_keypad.md R204, R205; O43,
O44). -/

namespace Sys2Proof.Machine

/-- The state after a Draw in range (R204): the sprite drawn at the coordinates held before, then VF, then PC. -/
def State.afterDraw (s : State) (x y : Reg) (n : Fin 16) : State :=
  ((s.setFb (drawSprite s (s.reg x) (s.reg y) n.val).1).setReg VF
    (flagByte (drawSprite s (s.reg x) (s.reg y) n.val).2)).advance

/-- In range, Draw answers that state. -/
theorem exec_draw_of_le {s : State} (x y : Reg) {n : Fin 16} (h : n.val = 0 ∨ s.i.toNat + n.val ≤ 0x1000) :
    exec (.draw x y n) s = .next (s.afterDraw x y n) :=
  s.inRange_ok _ h

/-- A Draw that completes was in range. -/
theorem exec_draw_next {s t : State} {x y : Reg} {n : Fin 16} (h : exec (.draw x y n) s = .next t) :
    (n.val = 0 ∨ s.i.toNat + n.val ≤ 0x1000) ∧ t = s.afterDraw x y n := by
  refine ⟨?_, State.eq_of_inRange_next h⟩
  obtain ⟨-, hrange⟩ | ⟨hbad, -⟩ := s.inRange_cases n.val (s.afterDraw x y n)
  · exact hrange
  · cases h.symm.trans hbad

theorem State.afterDraw_reg_VF (s : State) (x y : Reg) (n : Fin 16) :
    (s.afterDraw x y n).reg VF = flagByte (drawSprite s (s.reg x) (s.reg y) n.val).2 :=
  (State.setReg_reg _ VF _ VF).trans (if_pos rfl)

/-- A flag is 1 exactly when what it tells is so. -/
theorem flagByte_eq_one_iff (b : Bool) : flagByte b = 1 ↔ b = true := by
  cases b <;> decide

/-- A flag holds no other value than 0 and 1. -/
theorem flagByte_eq_zero_or_one (b : Bool) : flagByte b = 0 ∨ flagByte b = 1 := by
  cases b <;> decide

/-- Settles O43: what the pixel-by-pixel drawing has done once every row is drawn. -/
theorem drawXorsTheWholeSprite : Obligations.DrawXorsTheWholeSprite := by
  intro s x y n h
  obtain ⟨hpixels, hcollision⟩ := drawSprite_drawn s (s.reg x) (s.reg y) n.val (by omega)
  refine ⟨s.afterDraw x y n, exec_draw_of_le x y h, rfl, hpixels, ?_, ?_⟩
  · rw [s.afterDraw_reg_VF, flagByte_eq_one_iff, hcollision]
  · rw [s.afterDraw_reg_VF]
    exact flagByte_eq_zero_or_one _

/-- Draw leaves I and memory, so the sprite it drew is there again (D20). -/
theorem State.afterDraw_spriteBit (s : State) (x y : Reg) (n : Fin 16) :
    spriteBit (s.afterDraw x y n) = spriteBit s := rfl

/-- Every set bit of the sprite lies on some pixel. -/
theorem exists_spriteBit {s : State} (px0 py0 : Byte) {n row col : Nat} (hn : n < 32) (hrow : row < n) (hcol : col < 8)
    (hbit : (s.mem.read (s.i.toNat + row)).getLsbD col = true) : ∃ qx qy, spriteBit s px0 py0 n qx qy = true := by
  refine ⟨Fin.ofNat 64 (px0.toNat + (7 - col)), Fin.ofNat 32 (py0.toNat + row), ?_⟩
  have hx := (spriteCol_eq_iff px0 _ (7 - col) (by omega)).mpr rfl
  have hy := (spriteRow_eq_iff py0 _ row (by omega)).mpr rfl
  rw [spriteCol] at hx
  rw [spriteRow] at hy
  have hseven : 7 - (7 - col) = col := by omega
  have hcol8 : 7 - col < 8 := by omega
  simp only [spriteBit, hx, hy, hseven, hcol8, hrow, hbit, decide_true, Bool.and_self]

/-- Settles O44: XOR with the same sprite undoes itself, and the second draw meets an on pixel exactly where the first
met an off one. -/
theorem drawingTwiceRestoresTheFramebuffer : Obligations.DrawingTwiceRestoresTheFramebuffer := by
  intro s t x y x' y' n h hx hy
  obtain ⟨hrange, rfl⟩ := exec_draw_next h
  obtain ⟨t, ht, -, hfirst, -, -⟩ := drawXorsTheWholeSprite s x y n hrange
  cases h.symm.trans ht
  obtain ⟨u, hu, -, hsecond, hflag, -⟩ := drawXorsTheWholeSprite (s.afterDraw x y n) x' y' n hrange
  rw [hx, hy, s.afterDraw_spriteBit] at hsecond hflag
  have hcollision : u.reg VF = 1 ↔
      ∃ qx qy, spriteBit s (s.reg x) (s.reg y) n.val qx qy = true ∧ s.fb.get qx qy = false := by
    rw [hflag]
    refine exists_congr fun qx => exists_congr fun qy => and_congr_right fun hbit => ?_
    rw [hfirst, hbit, Bool.xor_true, Bool.not_eq_true']
  refine ⟨u, hu, fun qx qy => ?_, hcollision, fun hclear row col hrow hcol hbit => ?_⟩
  · rw [hsecond, hfirst, Bool.xor_assoc, Bool.xor_self, Bool.xor_false]
  · obtain ⟨qx, qy, hlit⟩ := exists_spriteBit (s.reg x) (s.reg y) (by omega : n.val < 32) hrow hcol hbit
    exact hcollision.mpr ⟨qx, qy, hlit, hclear qx qy⟩

end Sys2Proof.Machine
end

section
/-! What no instruction observes: ST, the stack slots at or above SP, and, but for their own instructions, KEY and FB
(10_state.md R27, R31, R33, 40_cycle.md section 4; O52, O53). -/

namespace Sys2Proof.Machine

/-! ### Changing parts an instruction does not touch -/

/-- A change of ST, the stack slots, KEY and FB, each on its own. -/
structure Veil where
  /-- What ST becomes. -/
  st : Byte → Byte := id
  /-- What the slots become. -/
  stack : Vector Word 16 → Vector Word 16 := id
  /-- What KEY becomes. -/
  key : Keypad → Keypad := id
  /-- What FB becomes. -/
  fb : Framebuffer → Framebuffer := id

/-- The changed state. -/
def Veil.apply (g : Veil) (s : State) : State :=
  { s with st := g.st s.st, stack := g.stack s.stack, key := g.key s.key, fb := g.fb s.fb }

/-- The change leaves alone what the instruction reads or writes of the four. -/
def Veil.Spares (g : Veil) : Instr → Prop
  | .ret | .call _ => g.stack = id
  | .setSound _ => g.st = id
  | .clearDisplay | .draw _ _ _ => g.fb = id
  | .skipKeyPressed _ | .skipKeyNotPressed _ | .waitKey _ => g.key = id
  | _ => True

/-- A range check depends on I alone. -/
theorem State.inRange_mapNext {s t u : State} {f : State → State} {n : Nat} (hi : (f s).i = s.i) (hu : u = f t) :
    (f s).inRange n u = mapNext f (s.inRange n t) := by
  rw [State.inRange, State.inRange, hi, hu]
  cases firstBadAddr s.i n with
  | some a => rfl
  | none => rfl

/-- Loading registers touches none of the four. -/
theorem Veil.apply_loadRegs (g : Veil) (s : State) (ks : List Nat) :
    (g.apply s).loadRegs ks = g.apply (s.loadRegs ks) := by
  induction ks generalizing s with
  | nil => rfl
  | cons k ks ih => exact ih (s.setReg (Fin.ofNat 16 k) (s.mem.read (s.i.toNat + k)))

/-- The commuting diagram: a change that spares the instruction can as well be made after it. -/
theorem Veil.exec_apply {g : Veil} {i : Instr} (hg : g.Spares i) (s : State) :
    exec i (g.apply s) = mapNext g.apply (exec i s) := by
  obtain ⟨σ, τ, κ, φ⟩ := g
  cases i
  case ret =>
    obtain rfl : τ = id := hg
    obtain ⟨h, hf⟩ | ⟨j, hj, hn⟩ := exec_ret_cases s
    · rw [hf]
      exact exec_of_ownFault_some (if_pos h)
    · rw [hn]
      exact exec_ret_of_sp_eq hj
  case call nnn =>
    obtain rfl : τ = id := hg
    obtain ⟨h, hf⟩ | ⟨j, hj, hn⟩ := exec_call_cases nnn s
    · rw [hf]
      exact exec_of_ownFault_some (if_pos h)
    · rw [hn]
      exact exec_call_of_sp_eq (s := Veil.apply ⟨σ, id, κ, φ⟩ s) hj nnn
  case setSound => obtain rfl : σ = id := hg; rfl
  case clearDisplay => obtain rfl : φ = id := hg; rfl
  case draw =>
    obtain rfl : φ = id := hg
    exact State.inRange_mapNext (f := Veil.apply ⟨σ, τ, κ, id⟩) rfl rfl
  case skipKeyPressed | skipKeyNotPressed =>
    obtain rfl : κ = id := hg
    simp only [exec_skipKeyPressed_eq, exec_skipKeyNotPressed_eq, apply_ite (mapNext _)]
    rfl
  case waitKey x =>
    obtain rfl : κ = id := hg
    cases hk : s.firstKey with
    | none =>
      rw [exec_waitKey_none hk, exec_waitKey_none (s := Veil.apply ⟨σ, τ, id, φ⟩ s) hk]
      rfl
    | some k =>
      rw [exec_waitKey_some x hk, exec_waitKey_some (s := Veil.apply ⟨σ, τ, id, φ⟩ s) x hk]
      rfl
  case bcdStore | registerDump => exact State.inRange_mapNext (f := Veil.apply ⟨σ, τ, κ, φ⟩) rfl rfl
  case registerLoad x =>
    rw [exec_registerLoad, execRegisterLoad, Veil.apply_loadRegs]
    exact State.inRange_mapNext (f := Veil.apply ⟨σ, τ, κ, φ⟩) rfl rfl
  all_goals rfl

/-- Outcomes that differ by a function on next states agree up to any relation it meets. -/
theorem agree_of_eq_mapNext {rel : State → State → Prop} {f : State → State} {r q : Result} (hq : q = mapNext f r)
    (hrel : ∀ t, rel t (f t)) : Agree rel r q := by
  rw [hq]
  cases r with
  | next t => exact hrel t
  | fault g => rfl
  | refused g => rfl

/-- Equal outcomes agree up to any reflexive relation. -/
theorem agree_of_eq {rel : State → State → Prop} {r q : Result} (hq : q = r) (hrel : ∀ t, rel t t) : Agree rel r q := by
  rw [hq]
  cases r with
  | next t => exact hrel t
  | fault g => rfl
  | refused g => rfl

/-! ### ST and the vacated slots -/

/-- Only SetSound touches ST (R27). -/
theorem exec_setSt {i : Instr} (hi : ∀ x, i ≠ .setSound x) (s : State) (b : Byte) :
    exec i (s.setSt b) = mapNext (State.setSt · b) (exec i s) := by
  refine Veil.exec_apply (g := { st := fun _ => b }) ?_ s
  cases i
  case setSound x => exact absurd rfl (hi x)
  all_goals simp [Veil.Spares]

/-- SetSound overwrites ST (R192). -/
theorem exec_setSound_setSt (x : Reg) (s : State) (b : Byte) : exec (.setSound x) (s.setSt b) = exec (.setSound x) s :=
  rfl

/-- `STACK[j] <- w`. -/
def State.setSlot (s : State) (j : Fin 16) (w : Word) : State := { s with stack := s.stack.set j w }

theorem State.setSlot_stack_other (s : State) {j k : Fin 16} (w : Word) (h : k ≠ j) :
    (s.setSlot j w).stack[k] = s.stack[k] :=
  Vector.getElem_set_ne j.isLt k.isLt fun e => h (Fin.ext e.symm)

/-- A slot write changes that slot alone. -/
theorem State.setSlot_keepsBut (s : State) (j : Fin 16) (w : Word) :
    KeepsBut (fun p => p == .slot j) s (s.setSlot j w) := by
  intro p hp
  cases p
  case slot k => exact s.setSlot_stack_other w fun e => by simp [e] at hp
  all_goals rfl

/-- Only Call and Return touch the stack (R26). -/
theorem exec_setSlot {i : Instr} (hret : i ≠ .ret) (hcall : ∀ nnn, i ≠ .call nnn) (s : State) (j : Fin 16) (w : Word) :
    exec i (s.setSlot j w) = mapNext (State.setSlot · j w) (exec i s) := by
  refine Veil.exec_apply (g := { stack := fun v => v.set j w }) ?_ s
  cases i
  case ret => exact absurd rfl hret
  case call nnn => exact absurd rfl (hcall nnn)
  all_goals simp [Veil.Spares]

/-- Return reads the slot below SP, so no slot at or above SP (R33). -/
theorem exec_ret_setSlot {s : State} {j : Fin 16} (h : s.sp.val ≤ j.val) (w : Word) :
    exec .ret (s.setSlot j w) = mapNext (State.setSlot · j w) (exec .ret s) := by
  obtain ⟨hsp, hf⟩ | ⟨k, hk, hn⟩ := exec_ret_cases s
  · rw [hf]
    exact exec_of_ownFault_some (if_pos hsp)
  · have hkj : k ≠ j := fun e => by rw [e] at hk; omega
    have hpop : (s.setSlot j w).afterRet k = (s.afterRet k).setSlot j w := by
      rw [State.afterRet, s.setSlot_stack_other w hkj]
      rfl
    rw [hn, mapNext, ← hpop]
    exact exec_ret_of_sp_eq hk

/-- Call overwrites the slot at SP and reads none. -/
theorem exec_call_setSlot (nnn : Addr) (s : State) (j : Fin 16) (w : Word) :
    exec (.call nnn) (s.setSlot j w)
      = mapNext (if j.val = s.sp.val then id else (State.setSlot · j w)) (exec (.call nnn) s) := by
  obtain ⟨hsp, hf⟩ | ⟨k, hk, hn⟩ := exec_call_cases nnn s
  · rw [hf]
    exact exec_of_ownFault_some (if_pos hsp)
  · rw [hn, exec_call_of_sp_eq (s := s.setSlot j w) hk]
    refine congrArg Host.Outcome.next ?_
    split
    case isTrue hj =>
      obtain rfl : j = k := Fin.ext (hj.trans hk.symm)
      simp only [State.afterCall, State.setSlot, Vector.set_set, id]
    case isFalse hj =>
      have hjk : j.val ≠ k.val := fun e => hj (e.trans hk)
      simp only [State.afterCall, State.setSlot, Vector.set_comm _ _ hjk]

/-- Settles O52: the outcomes differ by the same change made afterwards, or not at all where the instruction writes the
part itself. -/
theorem soundTimerAndVacatedSlotsAreNeverRead : Obligations.SoundTimerAndVacatedSlotsAreNeverRead := by
  intro i s
  refine ⟨fun b => ?_, fun j w hj => ?_⟩
  · by_cases hi : ∃ x, i = .setSound x
    · obtain ⟨x, rfl⟩ := hi
      exact agree_of_eq (exec_setSound_setSt x s b) fun t => ⟨rfl, KeepsBut.refl _ t⟩
    · exact agree_of_eq_mapNext (exec_setSt (not_exists.mp hi) s b) fun t =>
        ⟨rfl, (KeepsBut.refl _ t).setSt rfl b⟩
  · have hslot (t : State) : (t.setSlot j w).pc = t.pc ∧ KeepsBut (fun p => p == .slot j) t (t.setSlot j w) :=
      ⟨rfl, t.setSlot_keepsBut j w⟩
    by_cases hret : i = .ret
    · subst hret
      exact agree_of_eq_mapNext (exec_ret_setSlot hj w) hslot
    by_cases hcall : ∃ nnn, i = .call nnn
    · obtain ⟨nnn, rfl⟩ := hcall
      refine agree_of_eq_mapNext (exec_call_setSlot nnn s j w) fun t => ?_
      split
      · exact ⟨rfl, KeepsBut.refl _ t⟩
      · exact hslot t
    · exact agree_of_eq_mapNext (exec_setSlot hret (not_exists.mp hcall) s j w) hslot

/-! ### KEY and FB -/

/-- Only the key skips and WaitKey read KEY (R31). -/
theorem exec_setKeys {i : Instr} (hi : ∀ x, i ≠ .skipKeyPressed x ∧ i ≠ .skipKeyNotPressed x ∧ i ≠ .waitKey x)
    (s : State) (keys : Keypad) : exec i (s.setKeys keys) = mapNext (State.setKeys · keys) (exec i s) := by
  refine Veil.exec_apply (g := { key := fun _ => keys }) ?_ s
  cases i
  case skipKeyPressed x => exact absurd rfl (hi x).1
  case skipKeyNotPressed x => exact absurd rfl (hi x).2.1
  case waitKey x => exact absurd rfl (hi x).2.2
  all_goals simp [Veil.Spares]

/-- Only Draw reads FB, and only ClearDisplay else writes it (R30, R201). -/
theorem exec_setFb {i : Instr} (hdraw : ∀ x y n, i ≠ .draw x y n) (hclear : i ≠ .clearDisplay) (s : State)
    (fb : Framebuffer) : exec i (s.setFb fb) = mapNext (State.setFb · fb) (exec i s) := by
  refine Veil.exec_apply (g := { fb := fun _ => fb }) ?_ s
  cases i
  case draw x y n => exact absurd rfl (hdraw x y n)
  case clearDisplay => exact absurd rfl hclear
  all_goals simp [Veil.Spares]

/-- ClearDisplay overwrites FB (R200). -/
theorem exec_clearDisplay_setFb (s : State) (fb : Framebuffer) :
    exec .clearDisplay (s.setFb fb) = exec .clearDisplay s := rfl

/-- Settles O53: a new keypad or framebuffer stays through every instruction that does not touch it. -/
theorem keypadAndFramebufferAreReadOnlyByTheirInstructions :
    Obligations.KeypadAndFramebufferAreReadOnlyByTheirInstructions := by
  intro i s keys fb
  refine ⟨fun hi => agree_of_eq_mapNext (exec_setKeys hi s keys) fun _ => rfl, fun hdraw => ?_⟩
  by_cases hclear : i = .clearDisplay
  · subst hclear
    exact agree_of_eq (exec_clearDisplay_setFb s fb) fun t => ⟨rfl, fun hne => absurd rfl hne⟩
  · exact agree_of_eq_mapNext (exec_setFb hdraw hclear s fb) fun t => ⟨rfl, fun _ => rfl⟩

end Sys2Proof.Machine
end

section
/-! Reset, loading a program, and the invariant along steps and along whole runs of the driver
(70_reset_and_hazards.md; O54 to O58). -/

namespace Sys2Proof.Machine

/-! ### Reset (R34, R250) -/

/-- Outside the font, memory that nothing has written reads 0 (D5). -/
theorem resetByte_eq_zero {a : Nat} (h : a < 0x50 ∨ 0xA0 ≤ a) : resetByte a = 0 := by
  unfold resetByte
  split
  case isFalse => rfl
  case isTrue hbase =>
    have hlen : fontTable.length ≤ a - fontBase := by
      have h80 : fontTable.length = 80 := by decide
      rw [h80]
      simp only [fontBase] at *
      omega
    exact List.getD_eq_default _ _ hlen

/-- Settles O54: the replicated registers, slots and pixels, and the bytes of an empty memory. -/
theorem resetLeavesTheStatedValues : Obligations.ResetLeavesTheStatedValues := by
  refine ⟨fun r => Vector.getElem_replicate r.isLt, rfl, rfl, rfl, fun j => Vector.getElem_replicate j.isLt, rfl, rfl,
    fun qx qy => Framebuffer.get_cleared qx qy, rfl, fun a ha => ?_, by decide⟩
  exact resetByte_eq_zero (ha.imp_right And.left)

/-! ### Loading a program (R252, R225) -/

/-- An image that fits is written at ENTRY_PC. -/
theorem State.loadProgram_of_le (s : State) {image : List Byte} (h : image.length ≤ 3584) :
    s.loadProgram (some image) = .next (s.setMem (s.mem.writeBytes 0x200 image)) :=
  if_pos h

/-- Settles O55: the bytes written at 0x200, which a fitting image keeps inside memory. -/
theorem loadProgramPlacesTheImage : Obligations.LoadProgramPlacesTheImage := by
  intro s image
  refine ⟨fun h => ?_, fun h => if_neg (Nat.not_le.mpr h), rfl⟩
  have hlen : 0x200 + image.length ≤ Config.memSize := by simp only [Config.memSize]; omega
  refine ⟨_, s.loadProgram_of_le h, rfl, fun k hk => ?_, (KeepsBut.refl _ s).setMem fun a ha => ?_⟩
  · rw [State.setMem_mem, Memory.read_writeBytes _ _ _ hlen, if_pos (by omega), Nat.add_sub_cancel_left]
  · rw [Memory.read_writeBytes _ _ _ hlen, if_neg (of_decide_eq_false ha)]

/-! ### The invariant, part by part -/

theorem State.inv_iff (s : State) : s.inv = true ↔
    s.mem.wf = true ∧ s.pc.toNat ≤ 0x10FE ∧ ∀ j : Fin 16, (s.stack[j]).toNat ≤ 0xFFE := by
  simp only [State.inv, Bool.and_eq_true, decide_eq_true_eq, and_assoc]

/-- The invariant speaks of memory, PC and the stack alone. -/
theorem State.inv_congr {s t : State} (hmem : t.mem = s.mem) (hpc : t.pc = s.pc) (hstack : t.stack = s.stack) :
    t.inv = s.inv := by
  rw [State.inv, State.inv, hmem, hpc, hstack]

/-- Settles O57: nothing is listed in memory, PC is 0x200, every slot 0. -/
theorem resetMeetsTheInvariant : Obligations.ResetMeetsTheInvariant :=
  State.reset.inv_iff.mpr ⟨Memory.wf_nil, by decide, by decide⟩

/-- Memory after an instruction: as before, or with bytes stored from I on. -/
theorem exec_mem {i : Instr} {s t : State} (h : exec i s = .next t) :
    t.mem = s.mem ∨ ∃ bs, t.mem = s.mem.writeBytes s.i.toNat bs := by
  cases i
  case bcdStore x => exact .inr ⟨bcdDigits (s.reg x), by rw [State.eq_of_inRange_next h]; rfl⟩
  case registerDump x => exact .inr ⟨s.regsUpTo x, by rw [State.eq_of_inRange_next h]; rfl⟩
  case registerLoad => rw [State.eq_of_inRange_next h, State.loadRegs_eq]; exact .inl rfl
  case draw => rw [State.eq_of_inRange_next h]; exact .inl rfl
  case ret => obtain ⟨j, rfl⟩ := exec_ret_next h; exact .inl rfl
  case call => obtain ⟨j, -, rfl⟩ := exec_call_next h; exact .inl rfl
  case skipKeyPressed | skipKeyNotPressed =>
    cases h.symm.trans (exec_of_skipCondition rfl (ownFault_of_exec_next h))
    exact .inl rfl
  case waitKey x =>
    cases hk : s.firstKey with
    | none => cases h.symm.trans (exec_waitKey_none hk); exact .inl rfl
    | some k => cases h.symm.trans (exec_waitKey_some x hk); exact .inl rfl
  all_goals cases h; exact .inl rfl

/-- An instruction keeps memory canonical. -/
theorem exec_mem_wf {i : Instr} {s t : State} (h : exec i s = .next t) (hwf : s.mem.wf = true) : t.mem.wf = true := by
  obtain hmem | ⟨bs, hmem⟩ := exec_mem h
  · rwa [hmem]
  · rw [hmem]
    exact Memory.writeBytes_wf _ bs hwf

/-- An instruction run at a PC that can be fetched leaves every slot an address a Call can have: a Call pushes that PC,
and no other instruction writes a slot (R122). -/
theorem exec_stack_le {i : Instr} {s t : State} (h : exec i s = .next t) (hpc : s.pc.toNat ≤ 0xFFE)
    (hstack : ∀ j : Fin 16, (s.stack[j]).toNat ≤ 0xFFE) (j : Fin 16) : (t.stack[j]).toNat ≤ 0xFFE := by
  by_cases hcall : ∃ nnn, i = .call nnn
  · obtain ⟨nnn, rfl⟩ := hcall
    obtain ⟨k, -, rfl⟩ := exec_call_next h
    by_cases hk : j = k
    · subst hk
      rwa [s.afterCall_stack_same]
    · rw [s.afterCall_stack_other nnn hk]
      exact hstack j
  · have hkeep : t.stack[j] = s.stack[j] := by
      refine exec_keepsBut h (.slot j) ?_
      cases i
      case call nnn => exact absurd ⟨nnn, rfl⟩ hcall
      all_goals rfl
    rw [hkeep]
    exact hstack j

/-- The largest PC an instruction can reach from a fetchable PC is JumpOffset's 0xFFF + 0xFF (R24, R105). -/
theorem exec_pc_le {i : Instr} {s t : State} (h : exec i s = .next t) (hpc : s.pc.toNat ≤ 0xFFE)
    (hstack : ∀ j : Fin 16, (s.stack[j]).toNat ≤ 0xFFE) : t.pc.toNat ≤ 0x10FE := by
  obtain ⟨hdefault, hskip, hjump⟩ := defaultAdvanceIsTwo i s t h
  cases hset : setsPc i with
  | false =>
    obtain ⟨hadvance, hwait⟩ := hdefault hset
    by_cases hkey : ∃ x, i = .waitKey x ∧ s.firstKey = none
    · obtain ⟨x, hx, hnone⟩ := hkey
      rw [hwait x hx hnone]
      omega
    · rw [hadvance fun x hx hnone => hkey ⟨x, hx, hnone⟩]
      bv_omega
  | true =>
    cases hc : skipCondition i s with
    | some c =>
      rw [hskip c hc, ← State.skipIf_pc, State.skipIf_pc_toNat hpc]
      split <;> omega
    | none =>
      obtain rfl | ⟨nnn, rfl | rfl | rfl⟩ := hjump hset hc
      · obtain ⟨j, rfl⟩ := exec_ret_next h
        have hslot := hstack j
        show (s.stack[j] + 2).toNat ≤ 0x10FE
        bv_omega
      · cases h
        have hn := nnn.isLt
        rw [State.setPc_pc, zextAddr_toNat]
        omega
      · obtain ⟨j, -, rfl⟩ := exec_call_next h
        have hn := nnn.isLt
        show (zextAddr nnn).toNat ≤ 0x10FE
        rw [zextAddr_toNat]
        omega
      · cases h
        have hn := nnn.isLt
        have hv := (s.reg 0).isLt
        rw [State.setPc_pc, jumpOffset_target_toNat]
        omega

/-! ### The invariant along a run -/

/-- A cycle that completes executed an instruction at a fetchable PC. -/
theorem exec_of_cycle_next {s t : State} (h : cycle s = .next t) : s.pc.toNat ≤ 0xFFE ∧ ∃ i, exec i s = .next t := by
  cases hfault : s.fault with
  | some f => cases h.symm.trans (cycle_of_fault hfault)
  | none =>
    rcases Nat.lt_or_ge 0xFFE s.pc.toNat with hpc | hpc
    · cases h.symm.trans (cycle_of_fetch_out hfault hpc)
    · rw [cycle_of_fetchable hfault hpc] at h
      cases hi : decode (s.mem.fetchWord s.pc.toNat) with
      | ok i => exact ⟨hpc, i, (s.runWord_of_decode_ok hi).symm.trans h⟩
      | error e => cases h.symm.trans (s.runWord_of_decode_error hi)

/-- A cycle keeps the invariant. -/
theorem cycle_inv {s t : State} (hs : s.inv = true) (h : cycle s = .next t) : t.inv = true := by
  obtain ⟨hwf, -, hstack⟩ := s.inv_iff.mp hs
  obtain ⟨hpc, i, hi⟩ := exec_of_cycle_next h
  exact t.inv_iff.mpr ⟨exec_mem_wf hi hwf, exec_pc_le hi hpc hstack, exec_stack_le hi hpc hstack⟩

/-- Settles O56: the inputs before the cycle change none of the three. -/
theorem stepKeepsTheInvariant : Obligations.StepKeepsTheInvariant := fun s _ hs h =>
  cycle_inv ((State.inv_congr s.takeInputs_mem s.takeInputs_pc s.takeInputs_stack).trans hs) h

/-- Loading an image keeps memory canonical, at any time (log 23). -/
theorem State.loadProgram_inv {s t : State} (hs : s.inv = true) {image : Option (List Byte)}
    (h : s.loadProgram image = .next t) : t.inv = true := by
  obtain ⟨hwf, hpc, hstack⟩ := s.inv_iff.mp hs
  cases image with
  | none => cases h
  | some image =>
    rw [State.loadProgram] at h
    split at h
    case isTrue =>
      cases h
      exact (State.inv_iff _).mpr ⟨Memory.writeBytes_wf _ image hwf, hpc, hstack⟩
    case isFalse => cases h

/-- A fault recorded changes nothing the invariant speaks of. -/
theorem State.recordFault_inv (s : State) (f : Fault) : (s.recordFault f).inv = s.inv := State.inv_congr rfl rfl rfl

/-- Every call of the driver keeps the invariant. -/
theorem State.call_inv {s : State} (hs : s.inv = true) (c : HostCall) : (s.call c).inv = true := by
  cases c with
  | step =>
    rw [State.call, State.callStep]
    split
    case h_1 t h => exact cycle_inv hs h
    case h_2 f _ => exact (s.recordFault_inv f).trans hs
    case h_3 => exact hs
  | input h => rw [State.call, State.input_eq]; exact hs
  | load image =>
    rw [State.call]
    split
    case h_1 t h => exact State.loadProgram_inv hs h
    case h_2 f _ => exact (s.recordFault_inv f).trans hs
    case h_3 => exact hs

/-- Settles O58, by induction on the list of calls. -/
theorem everyDriverRunKeepsTheInvariant : Obligations.EveryDriverRunKeepsTheInvariant := by
  intro s cs hs
  induction cs generalizing s with
  | nil => exact hs
  | cons c cs ih => exact ih (s.call c) (State.call_inv hs c)

end Sys2Proof.Machine
end
